-- ==== Sys2Proof/Word.lean ====
section
/-! DEFINITION. The widths of the engine's quantities (spec/00_scope.md section 5: a byte is 8 bits,
every quantity is unsigned). -/

namespace Sys2Proof

/-- A byte, the only addressable unit of the buffers and of both streams (20_memory.md R51). -/
abbrev Byte := BitVec 8

/-- A 16-bit quantity: a checksum, a register of a device, a start offset or a quantity. -/
abbrev Half := BitVec 16

/-- A 32-bit quantity: a number of milliseconds or a poll counter (00_scope.md R10). -/
abbrev Word := BitVec 32

end Sys2Proof
end

