-- ==== Sys2Proof/Machine/ByteOrder.lean ====
section
/-! DEFINITION. Byte order (20_memory.md R53, R54; the notation of 00_scope.md section 5): the
checksum is little-endian on the wire, every other 16-bit field big-endian. -/

namespace Sys2Proof.Machine

/-- `lo8(v) = v[7:0]`. -/
def lo8 (v : Half) : Byte := v.setWidth 8

/-- `hi8(v) = v[15:8]`. -/
def hi8 (v : Half) : Byte := (v >>> 8).setWidth 8

/-- `be16(v)`: high byte first (20_memory.md R54). -/
def be16 (v : Half) : List Byte := [hi8 v, lo8 v]

/-- `le16(v)`: low byte first (20_memory.md R53). -/
def le16 (v : Half) : List Byte := [lo8 v, hi8 v]

/-- `u16be(a, b) = a × 256 + b`. -/
def u16be (a b : Byte) : Half := a ++ b

/-- `u16le(a, b) = a + b × 256`. -/
def u16le (a b : Byte) : Half := b ++ a

/-- Byte `i` of a byte sequence, counting from 0 (00_scope.md section 5). The rules never index at or
beyond the length (20_memory.md R70). -/
def byteAt (b : List Byte) (i : Nat) : Byte := b.getD i 0

end Sys2Proof.Machine
end

