-- ==== Sys2Proof/Config.lean ====
section
/-! DEFINITION. The constants the spec fixes (00_scope.md R7, R8, R10), its two open parameters (R9)
and the free values: what the environment answers where no answer is written down. -/

namespace Sys2Proof.Config

/-! ## Constants (00_scope.md R7): hard-wired, no register holds them (10_state.md R33) -/

/-- `CRC_INIT`, the initial accumulator (R7). -/
abbrev crcInit : Half := 0xFFFF
/-- `POLY`, XOR-ed in when the bit shifted out is 1 (R7). -/
abbrev poly : Half := 0xA001
/-- `TAG_LEN`, bytes in the auth tag (R7). -/
abbrev tagLen : Nat := 4
/-- `MIN_FRAME`, the fewest bytes `decode_and_verify` accepts (R7). -/
abbrev minFrame : Nat := 5
/-- `MAX_FRAME`, the largest frame and the size of every buffer (R7, R10). -/
abbrev maxFrame : Nat := 64
/-- `FC_RHR`, read-holding-registers (R7). -/
abbrev fcRhr : Byte := 0x03
/-- `FC_WMR`, write-multiple-registers (R7). -/
abbrev fcWmr : Byte := 0x10
/-- `EXC_BIT`, OR-ed into the function code by a device that signals an exception (R7). -/
abbrev excBit : Byte := 0x80
/-- `ADDR_CAM_ENTRY`, the entry camera (R7): a value the host is expected to put in A_ADDR. -/
abbrev addrCamEntry : Byte := 0x11
/-- `ADDR_CAM_EXIT`, the exit camera (R7). -/
abbrev addrCamExit : Byte := 0x12
/-- `ADDR_BOARD`, the display board (R7), the fixed address of UPDATE_BOARD. -/
abbrev addrBoard : Byte := 0x20
/-- `K_EMPTY`, consecutive empty reads that end frame assembly (R7). -/
abbrev kEmpty : Nat := 3
/-- `RHR_OVERHEAD`, bytes of a read response other than its data (R7). -/
abbrev rhrOverhead : Nat := 5
/-- `ACK_LEN`, bytes of a write acknowledgement (R7). -/
abbrev ackLen : Nat := 8
/-- `T_GUARD`, the inter-frame guard delay in ms (R7). -/
abbrev tGuard : Word := 50
/-- `T_POLL`, the poll cadence in ms (R7). -/
abbrev tPoll : Word := 100
/-- `T_BACKOFF`, the base of the exponential backoff in ms (R7). -/
abbrev tBackoff : Nat := 100
/-- `N_DATA_REGS`, the registers `read_data` reads (R7). -/
abbrev nDataRegs : Half := 8
/-- `MIN_DATA_BYTES`, the least byte count `read_data` accepts (R7). -/
abbrev minDataBytes : Nat := 16
/-- `N_BOARD_REGS`, the registers `update_board` writes (R7). -/
abbrev nBoardRegs : Nat := 13
/-- `REG_STATUS`, the offset `read_status` and `read_data` start at (R7). -/
abbrev regStatus : Half := 0
/-- `REG_TRIGGER`, the offset `trigger_capture` and `reset_trigger` write (R7). -/
abbrev regTrigger : Half := 1
/-- `OVERHEAD`, bytes of a request other than its payload (R8). -/
abbrev overhead : Nat := 8
/-- `MAX_PAYLOAD`, the longest payload of a request (R8). -/
abbrev maxPayload : Nat := 56
/-- `MAX_RETRIES_LIMIT`, the largest legal `max_retries` (R10). -/
abbrev maxRetriesLimit : Nat := 25

/-! ## Open parameters (00_scope.md R9): only `T_FIRST > T_NEXT` is stated -/

/-- `T_NEXT`, the transport's idle timeout for a later read, in ms: no value (R9, log 15). -/
opaque tNext : Nat
/-- By how much `T_FIRST` exceeds `T_NEXT`, less 1: no value (R9, log 15). -/
opaque tFirstExcess : Nat
/-- `T_FIRST`, the transport's idle timeout for the first read of a frame, in ms (R9). -/
def tFirst : Nat := tNext + tFirstExcess + 1

/-! ## Free values (log 3, log 11): nothing is known of them -/

/-- What the transport answers to the `k`-th unscripted TxWrite: `true` is `ok`, `false` is `fail`
(20_memory.md R58, 92_eei_decisions.md D36). -/
opaque txAnswer : Nat → Bool
/-- What the transport offers to the `k`-th unscripted RxRead; the read takes at most what it asked for
(20_memory.md R59, 92_eei_decisions.md D36). -/
opaque rxAnswer : Nat → List Byte
/-- What a host read of register `reg` returns while the engine is busy, where no rule fixes it
(20_memory.md R67, 93_implementation_defined.md U19). -/
opaque busyRead : Nat → Nat → Word

end Sys2Proof.Config
end

