-- ==== Sys2Proof/Machine/Checksum.lean ====
section
/-! DEFINITION. The checksum component (spec/40_checksum.md R120, R121): pure functions. -/

namespace Sys2Proof.Machine

/-- One of the 8 shifts: a logical right shift, and the XOR with 0xA001 when the bit shifted out was 1
(R121). The direction is the spec's own, from general knowledge (G1, log 16). -/
def crcShift (crc : Half) : Half :=
  if crc.getLsbD 0 then (crc >>> 1) ^^^ Config.poly else crc >>> 1

/-- `n` shifts, one after the other. -/
def crcShifts : Nat → Half → Half
  | 0, crc => crc
  | n + 1, crc => crcShifts n (crcShift crc)

/-- `crc_byte(crc, b)`: the byte goes into bits 7:0, then 8 shifts (R121). -/
def crcByte (crc : Half) (b : Byte) : Half :=
  crcShifts 8 (crc ^^^ b.setWidth 16)

/-- `crc16(bytes)`: starts at 0xFFFF, one byte after the other, nothing applied at the end (R120). -/
def crc16 (bytes : List Byte) : Half :=
  bytes.foldl crcByte Config.crcInit

end Sys2Proof.Machine
end

