-- ==== Sys2Proof/Machine/Types.lean ====
section
/-! DEFINITION. The named values of the machine: errors, orchestrator states, status names, read
classes and port events. -/

namespace Sys2Proof.Machine

/-- The errors an operation reports (60_exceptions.md R210). They are values in R_ERR, not traps: there
is no trap mechanism (R221). -/
inductive Err where
  | checksumMismatch
  | addressMismatch
  | functionMismatch
  /-- With the device's code, the only value an error carries (R214). -/
  | deviceException (code : Byte)
  | frameTooShort
  | shortPayload
  | timeout
  | transportWriteFailure
  | callerMisuse
  | failed
deriving DecidableEq, Repr

/-- The orchestrator's states (44_capture_orchestrator.md R180). -/
inductive Orch where
  | idle
  | triggered
  | polling
  | succeeded
  | failed
deriving DecidableEq, Repr

/-- The status names of a camera (30_encoding.md R95). -/
inductive StatusName where
  | ready
  | processing
  | ok
  | error
deriving DecidableEq, Repr

/-- The class a read passes to the transport, which idle timeout to apply (20_memory.md R59). -/
inductive ReadClass where
  | first
  | next
deriving DecidableEq, Repr

/-- One port event of the ghost trace (10_state.md R36). -/
inductive Event where
  /-- `Tx(bytes, ok|fail)`; `ok = true` is `ok`. -/
  | tx (bytes : List Byte) (ok : Bool)
  /-- `Rx(n, cls, bytes)`. -/
  | rx (n : Nat) (cls : ReadClass) (bytes : List Byte)
  /-- `Sleep(ms)`. -/
  | sleep (ms : Word)
deriving DecidableEq, Repr

/-- An LprReading (10_state.md R27): status, eight plate bytes with no terminator, confidence, error
code, each as the device sent it. -/
structure Reading where
  status : Byte
  plate : Vector Byte 8
  confidence : Byte
  errorCode : Byte
deriving DecidableEq, Repr

end Sys2Proof.Machine
end

