-- ==== Sys2Proof/Syntax.lean ====
section
/-! DEFINITION. The instructions: one constructor for each row of spec/opcode_table.json, the ten host
commands (30_encoding.md R97) and the six wire frame kinds (30_encoding.md R80 to R87). -/

namespace Sys2Proof

/-- An auth tag: four raw bytes, `t0` first on the wire, with no numeric value (30_encoding.md R80,
20_memory.md R69). -/
structure Tag where
  t0 : Byte
  t1 : Byte
  t2 : Byte
  t3 : Byte
deriving DecidableEq, Repr

/-- Where the words of an instruction stand: in the CMD register, in a frame the engine sends, or in a
frame a device sends. The same function byte means a request or a response by its direction
(30_encoding.md R82). -/
inductive Lane where
  | cmd
  | request
  | response
deriving DecidableEq, Repr

/-- The rows of spec/opcode_table.json. A command carries no field: its operands are the operand
latches (30_encoding.md R97). A frame kind carries the fields of its layout; the checksum is
computed from them (30_encoding.md R88). -/
inductive Instr where
  /-- `CRC16`, opcode 0x01 (40_checksum.md R124). -/
  | crc16
  /-- `ENCODE`, opcode 0x02 (41_frame_codec.md R132). -/
  | encodeFrame
  /-- `DECODE`, opcode 0x03 (41_frame_codec.md R136). -/
  | decodeFrame
  /-- `READ_FRAME`, opcode 0x04 (42_stream_framer.md R155). -/
  | readFrame
  /-- `TRIGGER_CAPTURE`, opcode 0x10 (43_device_handlers.md R164). -/
  | triggerCapture
  /-- `READ_STATUS`, opcode 0x11 (43_device_handlers.md R165). -/
  | readStatus
  /-- `READ_DATA`, opcode 0x12 (43_device_handlers.md R166). -/
  | readData
  /-- `RESET_TRIGGER`, opcode 0x13 (43_device_handlers.md R167). -/
  | resetTrigger
  /-- `UPDATE_BOARD`, opcode 0x14 (43_device_handlers.md R168). -/
  | updateBoard
  /-- `CAPTURE_PLATE`, opcode 0x20 (44_capture_orchestrator.md R195). -/
  | capturePlate
  /-- `RHR_REQUEST`, function 0x03: asks for `qty` registers from `start` (30_encoding.md R80, R85). -/
  | rhrRequest (addr : Byte) (start qty : Half) (tag : Tag)
  /-- `RHR_RESPONSE`, function 0x03: `byte_count` is the number of data bytes (30_encoding.md R81, R86). -/
  | rhrResponse (addr : Byte) (data : List Byte)
  /-- `WMR_REQUEST`, function 0x10: `qty` is the number of values (30_encoding.md R80, R84). -/
  | wmrRequest (addr : Byte) (start : Half) (values : List Half) (tag : Tag)
  /-- `WMR_ACK`, function 0x10: four bytes the engine does not look at (30_encoding.md R81, R87). -/
  | wmrAck (addr p0 p1 p2 p3 : Byte)
  /-- `RHR_EXCEPTION`, function 0x83: the code, then any further bytes (30_encoding.md R81, R83). -/
  | rhrException (addr code : Byte) (rest : List Byte)
  /-- `WMR_EXCEPTION`, function 0x90: the code, then any further bytes (30_encoding.md R81, R83). -/
  | wmrException (addr code : Byte) (rest : List Byte)
deriving DecidableEq, Repr

end Sys2Proof
end

