-- ==== Sys2Proof/Machine/Frame.lean ====
section
/-! DEFINITION. The frames as byte sequences (spec/30_encoding.md R80 to R89) and the decoder's verdict
on one (spec/41_frame_codec.md R133): pure functions, byte 0 first on the wire. -/

namespace Sys2Proof.Machine

/-- The four tag bytes in wire order (30_encoding.md R80). -/
def tagBytes (t : Tag) : List Byte := [t.t0, t.t1, t.t2, t.t3]

/-- `body ‖ le16(crc16(body))`: a frame and its checksum field (30_encoding.md R88). -/
def withChecksum (body : List Byte) : List Byte := body ++ le16 (crc16 body)

/-- What the checksum of a request covers: address, function, payload, tag (30_encoding.md R80). -/
def requestBody (a f : Byte) (p : List Byte) (t : Tag) : List Byte := a :: f :: p ++ tagBytes t

/-- A request frame (30_encoding.md R80). -/
def requestFrame (a f : Byte) (p : List Byte) (t : Tag) : List Byte := withChecksum (requestBody a f p t)

/-- A response frame: no tag (30_encoding.md R81). -/
def responseFrame (a f : Byte) (p : List Byte) : List Byte := withChecksum (a :: f :: p)

/-- The payload of a read request (30_encoding.md R85). -/
def rhrPayload (start qty : Half) : List Byte := be16 start ++ be16 qty

/-- The payload of a write request: `start`, `qty`, `byte_count = 2 × Q`, the values (30_encoding.md
R84). -/
def wmrPayload (start : Half) (values : List Half) : List Byte :=
  be16 start ++ be16 (BitVec.ofNat 16 values.length) ++ [BitVec.ofNat 8 (2 * values.length)] ++
    values.flatMap be16

/-- The payload of a read response: `byte_count`, then the data (30_encoding.md R86). -/
def rhrResponsePayload (data : List Byte) : List Byte := BitVec.ofNat 8 data.length :: data

/-- The bytes before the checksum field: `b[0 .. n − 3]`. -/
def frameBody (b : List Byte) : List Byte := b.take (b.length - 2)

/-- The received checksum `c_rx = b[n − 2] + 256 × b[n − 1]` (41_frame_codec.md R133). -/
def frameChecksum (b : List Byte) : Half :=
  u16le (byteAt b (b.length - 2)) (byteAt b (b.length - 1))

/-- The payload slice `b[2 .. n − 3]` (41_frame_codec.md R135). -/
def framePayload (b : List Byte) : List Byte := (frameBody b).drop 2

/-- `decode_and_verify(b, ea, ef)`: the tests in the order of 41_frame_codec.md R133, R134. -/
def decodeAndVerify (b : List Byte) (ea ef : Byte) : Except Err (List Byte) :=
  if b.length < Config.minFrame then .error .frameTooShort
  else if frameChecksum b ≠ crc16 (frameBody b) then .error .checksumMismatch
  else if byteAt b 0 ≠ ea then .error .addressMismatch
  else if byteAt b 1 = ef then .ok (framePayload b)
  else if byteAt b 1 = ef ||| Config.excBit then .error (.deviceException (byteAt b 2))
  else .error .functionMismatch

end Sys2Proof.Machine
end

