-- ==== Sys2Proof/WellFormed.lean ====
section
/-! DEFINITION. Which instructions have an encoding: a frame is at most `MAX_FRAME` = 64 bytes
(30_encoding.md R91). A command has one always. -/

namespace Sys2Proof

/-- The instruction has an encoding: a request's payload is at most 56 bytes, a response's frame at
most 64 (30_encoding.md R80, R81, R91). The other limits of a command's operands are tested when the
command runs (30_encoding.md R98). -/
def Instr.wf : Instr → Bool
  | .crc16 => true
  | .encodeFrame => true
  | .decodeFrame => true
  | .readFrame => true
  | .triggerCapture => true
  | .readStatus => true
  | .readData => true
  | .resetTrigger => true
  | .updateBoard => true
  | .capturePlate => true
  | .rhrRequest _ _ _ _ => true
  | .rhrResponse _ data => data.length + Config.rhrOverhead ≤ Config.maxFrame
  | .wmrRequest _ _ values _ => 5 + 2 * values.length ≤ Config.maxPayload
  | .wmrAck _ _ _ _ _ => true
  | .rhrException _ _ rest => rest.length + Config.minFrame ≤ Config.maxFrame
  | .wmrException _ _ rest => rest.length + Config.minFrame ≤ Config.maxFrame

end Sys2Proof
end

