-- ==== Sys2Proof/Decode.lean ====
section
/-! DEFINITION. The decoder of the three kinds of instruction words (a value of CMD, a request frame, a
response frame), total on any bytes and rejecting by name; after it the encoder, written from the same
tables (30_encoding.md R80 to R90, R97). -/

namespace Sys2Proof

open Machine

/-- Why bytes are no instruction of spec/opcode_table.json. -/
inductive DecodeError where
  /-- A command word is exactly one byte (30_encoding.md R97). -/
  | notOneByte
  /-- A value of CMD outside the ten (30_encoding.md R98). -/
  | illegalOpcode (opcode : Byte)
  /-- Fewer bytes than the shortest frame of the lane (30_encoding.md R80, R81). -/
  | tooShort
  /-- More than 64 bytes (30_encoding.md R91). -/
  | tooLong
  /-- The last two bytes are not the checksum of the rest (30_encoding.md R88). -/
  | badChecksum
  /-- A function byte with no meaning in the lane (30_encoding.md R82). -/
  | unknownFunction (f : Byte)
  /-- The payload has not the layout of the function byte (30_encoding.md R84 to R87). -/
  | badLayout
deriving DecidableEq, Repr

/-- A value of CMD, matched exactly (30_encoding.md R97). -/
def decodeOpcode (op : Byte) : Except DecodeError Instr :=
  if op = 0x01 then .ok .crc16
  else if op = 0x02 then .ok .encodeFrame
  else if op = 0x03 then .ok .decodeFrame
  else if op = 0x04 then .ok .readFrame
  else if op = 0x10 then .ok .triggerCapture
  else if op = 0x11 then .ok .readStatus
  else if op = 0x12 then .ok .readData
  else if op = 0x13 then .ok .resetTrigger
  else if op = 0x14 then .ok .updateBoard
  else if op = 0x20 then .ok .capturePlate
  else .error (.illegalOpcode op)

/-- The tag read back from four bytes. -/
def tagOf (b : List Byte) : Tag := ⟨byteAt b 0, byteAt b 1, byteAt b 2, byteAt b 3⟩

/-- Big-endian 16-bit values from pairs of bytes (20_memory.md R54); an odd byte is left out. -/
def halves : List Byte → List Half
  | a :: b :: rest => u16be a b :: halves rest
  | _ => []

/-- The fields of a request's payload (30_encoding.md R84, R85). -/
def decodeRequestPayload (a f : Byte) (p : List Byte) (t : Tag) : Except DecodeError Instr :=
  let start := u16be (byteAt p 0) (byteAt p 1)
  let qty := u16be (byteAt p 2) (byteAt p 3)
  if f = Config.fcRhr then
    if p.length = 4 then .ok (.rhrRequest a start qty t) else .error .badLayout
  else if f = Config.fcWmr then
    if 5 ≤ p.length ∧ p.length = 5 + 2 * qty.toNat ∧ (byteAt p 4).toNat = 2 * qty.toNat then
      .ok (.wmrRequest a start (halves (p.drop 5)) t)
    else .error .badLayout
  else .error (.unknownFunction f)

/-- The fields of a response's payload (30_encoding.md R83, R86, R87). -/
def decodeResponsePayload (a f : Byte) (p : List Byte) : Except DecodeError Instr :=
  if f = Config.fcRhr then
    if (byteAt p 0).toNat + 1 = p.length then .ok (.rhrResponse a (p.drop 1)) else .error .badLayout
  else if f = Config.fcWmr then
    if p.length = 4 then .ok (.wmrAck a (byteAt p 0) (byteAt p 1) (byteAt p 2) (byteAt p 3))
    else .error .badLayout
  else if f = Config.fcRhr ||| Config.excBit then .ok (.rhrException a (byteAt p 0) (p.drop 1))
  else if f = Config.fcWmr ||| Config.excBit then .ok (.wmrException a (byteAt p 0) (p.drop 1))
  else .error (.unknownFunction f)

/-- The tests every frame passes before its fields are read: at least `least` bytes, at most 64, a good
checksum. -/
def checkFrame (least : Nat) (b : List Byte) : Option DecodeError :=
  if b.length < least then some .tooShort
  else if Config.maxFrame < b.length then some .tooLong
  else if frameChecksum b ≠ crc16 (frameBody b) then some .badChecksum
  else none

/-- A request frame: its payload stands before the four tag bytes (30_encoding.md R80). -/
def decodeRequest (b : List Byte) : Except DecodeError Instr :=
  match checkFrame Config.overhead b with
  | some e => .error e
  | none =>
    let rest := framePayload b
    let n := rest.length - Config.tagLen
    decodeRequestPayload (byteAt b 0) (byteAt b 1) (rest.take n) (tagOf (rest.drop n))

/-- A response frame (30_encoding.md R81). -/
def decodeResponse (b : List Byte) : Except DecodeError Instr :=
  match checkFrame Config.minFrame b with
  | some e => .error e
  | none => decodeResponsePayload (byteAt b 0) (byteAt b 1) (framePayload b)

/-- The instruction that the bytes of a lane stand for. -/
def decode : Lane → List Byte → Except DecodeError Instr
  | .cmd, [op] => decodeOpcode op
  | .cmd, _ => .error .notOneByte
  | .request, b => decodeRequest b
  | .response, b => decodeResponse b

/-- The opcode of a command (30_encoding.md R97); a frame kind has its function byte here (R82). -/
def Instr.opcode : Instr → Byte
  | .crc16 => 0x01
  | .encodeFrame => 0x02
  | .decodeFrame => 0x03
  | .readFrame => 0x04
  | .triggerCapture => 0x10
  | .readStatus => 0x11
  | .readData => 0x12
  | .resetTrigger => 0x13
  | .updateBoard => 0x14
  | .capturePlate => 0x20
  | .rhrRequest _ _ _ _ => Config.fcRhr
  | .rhrResponse _ _ => Config.fcRhr
  | .wmrRequest _ _ _ _ => Config.fcWmr
  | .wmrAck _ _ _ _ _ => Config.fcWmr
  | .rhrException _ _ _ => Config.fcRhr ||| Config.excBit
  | .wmrException _ _ _ => Config.fcWmr ||| Config.excBit

/-- Where the instruction's words stand. -/
def Instr.lane : Instr → Lane
  | .crc16 => .cmd
  | .encodeFrame => .cmd
  | .decodeFrame => .cmd
  | .readFrame => .cmd
  | .triggerCapture => .cmd
  | .readStatus => .cmd
  | .readData => .cmd
  | .resetTrigger => .cmd
  | .updateBoard => .cmd
  | .capturePlate => .cmd
  | .rhrRequest _ _ _ _ => .request
  | .rhrResponse _ _ => .response
  | .wmrRequest _ _ _ _ => .request
  | .wmrAck _ _ _ _ _ => .response
  | .rhrException _ _ _ => .response
  | .wmrException _ _ _ => .response

/-- The words of an instruction: the value of CMD (30_encoding.md R97) or the whole frame, checksum
included (30_encoding.md R80 to R88). -/
def encode : Instr → List Byte
  | .crc16 => [0x01]
  | .encodeFrame => [0x02]
  | .decodeFrame => [0x03]
  | .readFrame => [0x04]
  | .triggerCapture => [0x10]
  | .readStatus => [0x11]
  | .readData => [0x12]
  | .resetTrigger => [0x13]
  | .updateBoard => [0x14]
  | .capturePlate => [0x20]
  | .rhrRequest a start qty t => requestFrame a Config.fcRhr (rhrPayload start qty) t
  | .rhrResponse a data => responseFrame a Config.fcRhr (rhrResponsePayload data)
  | .wmrRequest a start values t => requestFrame a Config.fcWmr (wmrPayload start values) t
  | .wmrAck a p0 p1 p2 p3 => responseFrame a Config.fcWmr [p0, p1, p2, p3]
  | .rhrException a code rest => responseFrame a (Config.fcRhr ||| Config.excBit) (code :: rest)
  | .wmrException a code rest => responseFrame a (Config.fcWmr ||| Config.excBit) (code :: rest)

/-! ## The words of the opcode table (log 7) -/

/-- The bytes of a number, the least significant first. -/
def bytesOf : Nat → Nat → List Byte
  | 0, _ => []
  | n + 1, w => BitVec.ofNat 8 w :: bytesOf n (w / 256)

/-- A result as an option. -/
def accepted (r : Except DecodeError Instr) : Option Instr :=
  match r with
  | .ok i => some i
  | .error _ => none

/-- The shortest response with a given function byte and every other field 0 (30_encoding.md R81): what
a table word of one byte stands for when it is no opcode (log 7). -/
def zeroResponse (f : Byte) : List Byte := responseFrame 0 f [0]

/-- Where the words of a table row stand and what they are: one byte is a value of CMD if it is an
opcode, else the function byte of a response with zero fields; more bytes are a whole frame (log 7). -/
def tableWords (nbits w : Nat) : Lane × List Byte :=
  if nbits ≤ 8 then
    let op := BitVec.ofNat 8 w
    match decodeOpcode op with
    | .ok _ => (.cmd, [op])
    | .error _ =>
      match decodeResponse (zeroResponse op) with
      | .ok _ => (.response, zeroResponse op)
      | .error _ => (.cmd, [op])
  else
    let b := bytesOf ((nbits + 7) / 8) w
    match decodeResponse b with
    | .ok _ => (.response, b)
    | .error _ => (.request, b)

/-- The instruction the decoder reads from the words of a table row. -/
def decodeTableWord (nbits w : Nat) : Option Instr :=
  accepted (decode (tableWords nbits w).1 (tableWords nbits w).2)

end Sys2Proof
end

