-- ==== Sys2Proof/Machine/Codes.lean ====
section
/-! DEFINITION. The numbers of the named values, and what a read class stands for. -/

namespace Sys2Proof.Machine

/-- The code of R_ERR (60_exceptions.md R210). -/
def Err.code : Err → Byte
  | .checksumMismatch => 0x01
  | .addressMismatch => 0x02
  | .functionMismatch => 0x03
  | .deviceException _ => 0x04
  | .frameTooShort => 0x05
  | .shortPayload => 0x06
  | .timeout => 0x07
  | .transportWriteFailure => 0x08
  | .callerMisuse => 0x09
  | .failed => 0x0A

/-- The code of R_ERR for success (60_exceptions.md R210). -/
def okCode : Byte := 0x00

/-- What R_EXC holds after the error: the device's code, else 0 (60_exceptions.md R214). -/
def Err.exc : Err → Byte
  | .deviceException code => code
  | _ => 0

/-- The number of an orchestrator state (30_encoding.md R96). -/
def Orch.code : Orch → Byte
  | .idle => 0
  | .triggered => 1
  | .polling => 2
  | .succeeded => 3
  | .failed => 4

/-- The status enum ordinal (30_encoding.md R95). -/
def StatusName.ordinal : StatusName → Byte
  | .ready => 0
  | .processing => 1
  | .ok => 2
  | .error => 3

/-- The idle timeout the transport applies to a read of the class, in ms (20_memory.md R59,
00_scope.md R9). No rule depends on it (70_reset_and_hazards.md R255). -/
def ReadClass.idleTimeout : ReadClass → Nat
  | .first => Config.tFirst
  | .next => Config.tNext

/-- The reading that reset and the start of a command leave (10_state.md R22, R38). -/
def Reading.zero : Reading :=
  { status := 0, plate := Vector.replicate 8 0, confidence := 0, errorCode := 0 }

end Sys2Proof.Machine
end

