-- ==== Sys2Proof/Machine/Memory.lean ====
section
/-! DEFINITION. The 64-byte buffers (10_state.md R23, R25, R26; 20_memory.md R50, R51) as lists of
(index, byte) pairs in one canonical form: indices strictly rising, no byte listed that equals what an
unlisted index reads as. -/

namespace Sys2Proof.Machine

/-- A byte buffer. -/
abbrev Memory := List Host.Cell

/-- What an unlisted index reads as: 0, the reset value of OBUF (10_state.md R38); for the other
buffers DESIGN CHOICE (log 1, log 2). -/
def Memory.unlisted : Byte := 0

/-- The buffer with nothing listed. -/
def Memory.empty : Memory := []

/-- `buf[i]` (00_scope.md section 5): one byte (20_memory.md R57). -/
def Memory.read : Memory → Nat → Byte
  | [], _ => Memory.unlisted
  | (a, b) :: m, i => if i = a then b else Memory.read m i

/-- `buf[i] <- v` on a buffer in canonical form. -/
def Memory.write : Memory → Nat → Byte → Memory
  | [], i, v => if v = Memory.unlisted then [] else [(i, v)]
  | (a, b) :: m, i, v =>
    if i < a then
      if v = Memory.unlisted then (a, b) :: m else (i, v) :: (a, b) :: m
    else if i = a then
      if v = Memory.unlisted then m else (a, v) :: m
    else (a, b) :: Memory.write m i v

/-- `buf[i .. i + len(bytes) − 1] <- bytes`, one byte after the other. -/
def Memory.writeBytes : Memory → Nat → List Byte → Memory
  | m, _, [] => m
  | m, i, b :: bs => Memory.writeBytes (Memory.write m i b) (i + 1) bs

/-- `buf[i .. i + n − 1]`, the `n` bytes from index `i` on. -/
def Memory.readBytes : Memory → Nat → Nat → List Byte
  | _, _, 0 => []
  | m, i, n + 1 => Memory.read m i :: Memory.readBytes m (i + 1) n

/-- Every listed index is at least `lo`, indices rise strictly, no listed byte is the unlisted one. -/
def Memory.wfFrom : Nat → Memory → Bool
  | _, [] => true
  | lo, (a, b) :: m => decide (lo ≤ a) && (b != Memory.unlisted) && Memory.wfFrom (a + 1) m

/-- The canonical form: equal buffers are equal lists. -/
def Memory.wf (m : Memory) : Bool := Memory.wfFrom 0 m

/-- No listed index is `n` or more; a buffer of the engine is within 64 (20_memory.md R70). -/
def Memory.within (n : Nat) (m : Memory) : Bool := m.all fun c => decide (c.1 < n)

end Sys2Proof.Machine
end

