-- ==== Sys2Proof/Machine/State.lean ====
section
/-! DEFINITION. The state of the engine (10_state.md R20), by the classes of that table, with the
model's own fields (the environment's coming answers and the coming moves), the reasons a step can
stop, and the state after reset (10_state.md R38). -/

namespace Sys2Proof.Machine

/-- The operand latches and CMD: written by the host, never by the engine (10_state.md R21). -/
structure Operands where
  /-- `CMD`, No. 0. -/
  cmd : Byte
  /-- `A_ADDR`, No. 2. -/
  addr : Byte
  /-- `A_FUNC`, No. 3. -/
  func : Byte
  /-- `A_OFF`, No. 4. -/
  off : Byte
  /-- `A_LEN`, No. 5. -/
  len : Byte
  /-- `A_TAG[0..3]`, No. 6 to 9. -/
  tag : Tag
  /-- `A_MAXRETRIES`, No. 10. -/
  maxRetries : Byte
  /-- `A_TIMEOUT`, No. 11. -/
  timeout : Word
  /-- `BOARD[0..12]`, No. 64 to 76. -/
  board : Vector Half 13
  /-- `DBUF[0..63]`, No. 128 to 191. -/
  dbuf : Memory
deriving DecidableEq, Repr

/-- The result registers: written by the engine, read-only to the host (10_state.md R22). -/
structure Results where
  /-- `R_ERR`, No. 12. -/
  err : Byte
  /-- `R_EXC`, No. 13. -/
  exc : Byte
  /-- `R_CRC`, No. 14. -/
  crc : Half
  /-- `R_LEN`, No. 15. -/
  len : Byte
  /-- `R_STATUS`, No. 16. -/
  status : Byte
  /-- `RD_STATUS`, `RD_PLATE[0..7]`, `RD_CONF`, `RD_ERRCODE`, No. 17 to 19 and 32 to 39. -/
  reading : Reading
  /-- `R_ORCH`, No. 20. -/
  orch : Byte
  /-- `R_ATTEMPT`, No. 21. -/
  attempt : Byte
  /-- `OBUF[0..63]`, No. 192 to 255. -/
  obuf : Memory
deriving DecidableEq, Repr

/-- The sequencer (10_state.md R31) and the flags of STAT (R32). -/
structure Control where
  /-- `STAT` bit 0. -/
  busy : Bool
  /-- `STAT` bit 1. -/
  done : Bool
  /-- `STAT` bit 2. -/
  valid : Bool
  /-- `cur_op`, the opcode of the command in progress. -/
  curOp : Byte
  /-- `orch_state`. -/
  orch : Orch
  /-- Whether CAPTURE_PLATE stands between two transitions (log 9). -/
  midway : Bool
deriving DecidableEq, Repr

/-- The working registers: initialised and used inside one operation, never visible to the host
(10_state.md R20, R24 to R30, R37). -/
structure Work where
  crc : Half
  txbuf : Memory
  txlen : BitVec 7
  rxbuf : Memory
  rxlen : BitVec 7
  emptyPolls : BitVec 2
  hAddr : Byte
  hFunc : Byte
  hTag : Tag
  wrFail : Bool
  attempt : Byte
  pollCount : Word
  pollBudget : Word
  elapsed : Word
deriving DecidableEq, Repr

/-- The environment's coming answers, the model's own (92_eei_decisions.md D36, log 3). -/
structure Env where
  /-- The coming answers to TxWrite, `true` for `ok`; then free values. -/
  tx : List Bool
  /-- The receive stream: what each coming read finds, `[]` for a read that times out; then free
  values. -/
  rx : List (List Byte)
  /-- How many free values have been used. -/
  drawn : Nat
deriving DecidableEq, Repr

/-- One move of the host, of the reset input or of the line, or a turn of the engine (log 5). -/
inductive Move where
  /-- The host writes register `reg` (10_state.md R20); a write to CMD starts a command (R31). -/
  | write (reg : Nat) (value : Word)
  /-- The host reads register `reg`. -/
  | read (reg : Nat)
  /-- The reset input (70_reset_and_hazards.md R240). -/
  | reset
  /-- The reset input, after `k` more port events of the command in progress (R242). -/
  | resetAfter (k : Nat)
  /-- The engine advances the command in progress: CAPTURE_PLATE by one transition of the
  orchestrator (44_capture_orchestrator.md R180), another command to its end (log 9). -/
  | engine
  /-- Bytes arrive in the receive stream (10_state.md R35, 70_reset_and_hazards.md R247). -/
  | arrive (bytes : List Byte)
  /-- The engine carries out one exchange with this request frame (log 6). -/
  | send (bytes : List Byte)
deriving DecidableEq, Repr

/-- The complete state of the engine (10_state.md R20) and the model's own fields. -/
structure State where
  /-- Operand latches. -/
  ops : Operands
  /-- Result registers. -/
  res : Results
  /-- Sequencer and flags. -/
  ctl : Control
  /-- Working registers. -/
  work : Work
  /-- The ghost trace of port events, in the order they happen (10_state.md R36). -/
  trace : List Event
  /-- The model's own: the environment's coming answers (log 3). -/
  env : Env
  /-- The model's own: the coming moves (log 5). -/
  inbox : List Move
  /-- The model's own: what the host's latest register read returned (log 10). -/
  hostData : Word
deriving DecidableEq, Repr

/-- Why the machine stops with a fault. -/
inductive Fault where
  /-- The host addresses a register number that 10_state.md R20 does not assign. Raised by the host's
  register accesses (Machine/HostPort.lean), by no instruction. Safe: the model stops where the spec has
  no rule. -/
  | unmappedRegister (reg : Nat)
deriving DecidableEq, Repr

/-- Why a step has no meaning. -/
inductive Refusal where
  /-- An instruction without a meaning yet, by its mnemonic. Raised by an arm of `exec` only; no arm
  raises it. Safe: the model stops. -/
  | notModelled (mnemonic : String)
  /-- The line is asked to send bytes that are no request frame of the opcode table. Raised by the
  `send` move, by no instruction. Safe: the engine builds no such frame (30_encoding.md R80). -/
  | malformedRequest
deriving DecidableEq, Repr

/-- The operand latches after reset: "unspecified" (10_state.md R38), DESIGN CHOICE 0 (log 1). -/
def Operands.zero : Operands :=
  { cmd := 0, addr := 0, func := 0, off := 0, len := 0, tag := ⟨0, 0, 0, 0⟩, maxRetries := 0,
    timeout := 0, board := Vector.replicate 13 0, dbuf := Memory.empty }

/-- Every result register 0: after reset (10_state.md R38) and when a command starts (R22). -/
def Results.zero : Results :=
  { err := 0, exc := 0, crc := 0, len := 0, status := 0, reading := Reading.zero, orch := 0,
    attempt := 0, obuf := Memory.empty }

/-- The sequencer at rest, every flag 0 (10_state.md R38). -/
def Control.rest : Control :=
  { busy := false, done := false, valid := false, curOp := 0, orch := .idle, midway := false }

/-- The working registers after reset: "unspecified and unobservable" (10_state.md R38), DESIGN CHOICE 0
(log 2). -/
def Work.zero : Work :=
  { crc := 0, txbuf := Memory.empty, txlen := 0, rxbuf := Memory.empty, rxlen := 0, emptyPolls := 0,
    hAddr := 0, hFunc := 0, hTag := ⟨0, 0, 0, 0⟩, wrFail := false, attempt := 0, pollCount := 0,
    pollBudget := 0, elapsed := 0 }

/-- No answer of the environment written down (log 3). -/
def Env.free : Env := { tx := [], rx := [], drawn := 0 }

/-- The machine right after reset (10_state.md R38, 70_reset_and_hazards.md R240). -/
def State.reset : State :=
  { ops := Operands.zero, res := Results.zero, ctl := Control.rest, work := Work.zero, trace := [],
    env := Env.free, inbox := [], hostData := 0 }

end Sys2Proof.Machine
end

