-- ==== Sys2Proof/Machine/Ops.lean ====
section
/-! DEFINITION. The named operations over the state: the updates of its registers, the three port
primitives (20_memory.md R58 to R60), and reporting an error, which stands where other machines take
an exception (60_exceptions.md R221). -/

namespace Sys2Proof.Machine

/-! ## Working registers -/

/-- The checksum accumulator ends a computation at `c` (10_state.md R24, log 13). -/
def State.setCrc (c : Half) (s : State) : State := { s with work := { s.work with crc := c } }

/-- `txbuf[0 .. n − 1] <- frame ; txlen <- n` (10_state.md R25). -/
def State.latchTx (frame : List Byte) (s : State) : State :=
  { s with work := { s.work with
      txbuf := s.work.txbuf.writeBytes 0 frame, txlen := BitVec.ofNat 7 frame.length } }

/-- `rxbuf[0 .. n − 1]` holds what has been read, `rxlen` is `n`, `empty_polls` is `e` (10_state.md
R26). Bytes at and above `rxlen` are left (log 13). -/
def State.latchRx (bytes : List Byte) (e : Nat) (s : State) : State :=
  { s with work := { s.work with
      rxbuf := s.work.rxbuf.writeBytes 0 bytes, rxlen := BitVec.ofNat 7 bytes.length,
      emptyPolls := BitVec.ofNat 2 e } }

/-- `h_addr <- addr ; h_func <- func ; h_tag <- tag` (10_state.md R30). -/
def State.latchRequest (a f : Byte) (t : Tag) (s : State) : State :=
  { s with work := { s.work with hAddr := a, hFunc := f, hTag := t } }

/-- `wr_fail <- b` (10_state.md R30). -/
def State.setWrFail (b : Bool) (s : State) : State := { s with work := { s.work with wrFail := b } }

/-- `attempt <- attempt + 1` (44_capture_orchestrator.md R184, R192). -/
def State.bumpAttempt (s : State) : State :=
  { s with work := { s.work with attempt := s.work.attempt + 1 } }

/-- `poll_count <- poll_count + 1` (44_capture_orchestrator.md R186). -/
def State.bumpPoll (s : State) : State :=
  { s with work := { s.work with pollCount := s.work.pollCount + 1 } }

/-- `elapsed_poll_time <- elapsed_poll_time + 100` (44_capture_orchestrator.md R189). -/
def State.addElapsed (s : State) : State :=
  { s with work := { s.work with elapsed := s.work.elapsed + Config.tPoll } }

/-- `poll_count <- 0 ; elapsed_poll_time <- 0` (44_capture_orchestrator.md R185). -/
def State.clearPolls (s : State) : State :=
  { s with work := { s.work with pollCount := 0, elapsed := 0 } }

/-- `attempt <- 0 ; poll_budget <- floor(timeout_ms / 100)` (44_capture_orchestrator.md R182). -/
def State.openSession (s : State) : State :=
  { s with work := { s.work with attempt := 0, pollBudget := s.ops.timeout / 100 } }

/-! ## Result registers -/

/-- `R_ERR <- Ok` (60_exceptions.md R210). -/
def State.reportOk (s : State) : State := { s with res := { s.res with err := okCode } }

/-- An error reaches the top: its code goes to R_ERR, the device's code to R_EXC (60_exceptions.md
R221). Nothing else changes: no vector, no saved state, no mode. -/
def State.reportError (e : Err) (s : State) : State :=
  { s with res := { s.res with err := e.code, exc := e.exc } }

/-- `R_CRC <- c` (40_checksum.md R124). -/
def State.setResultCrc (c : Half) (s : State) : State := { s with res := { s.res with crc := c } }

/-- `OBUF[0 .. n − 1] <- bytes ; R_LEN <- n` (41_frame_codec.md R132, R136, 42_stream_framer.md R155). -/
def State.setOutput (bytes : List Byte) (s : State) : State :=
  { s with res := { s.res with
      obuf := s.res.obuf.writeBytes 0 bytes, len := BitVec.ofNat 8 bytes.length } }

/-- `R_STATUS <- v` (43_device_handlers.md R165). -/
def State.setStatus (v : Byte) (s : State) : State := { s with res := { s.res with status := v } }

/-- The four LprReading registers written together, `valid <- 1` (10_state.md R27). -/
def State.setReading (r : Reading) (s : State) : State :=
  { s with res := { s.res with reading := r }, ctl := { s.ctl with valid := true } }

/-- `R_ATTEMPT <- attempt` (44_capture_orchestrator.md R193). -/
def State.showAttempt (s : State) : State :=
  { s with res := { s.res with attempt := s.work.attempt } }

/-- `orch_state <- o`, shown in R_ORCH (10_state.md R31, 44_capture_orchestrator.md R195, log 8). -/
def State.setOrch (o : Orch) (s : State) : State :=
  { s with ctl := { s.ctl with orch := o }, res := { s.res with orch := o.code } }

/-- CAPTURE_PLATE has run its first statement and stands between two transitions (log 9). -/
def State.enterLoop (s : State) : State := { s with ctl := { s.ctl with midway := true } }

/-! ## Ports (20_memory.md R58 to R60) -/

/-- The transport's next answer to a TxWrite: the one written down, else a free value (log 3). -/
def Env.takeTx (e : Env) : Bool × Env :=
  match e.tx with
  | ok :: rest => (ok, { e with tx := rest })
  | [] => (Config.txAnswer e.drawn, { e with drawn := e.drawn + 1 })

/-- The transport's next answer to a read of up to `n` bytes: the front of the receive stream, which
loses what is returned and keeps the rest, else a free value; never more than `n` bytes (20_memory.md
R59, log 3). -/
def Env.takeRx (n : Nat) (e : Env) : List Byte × Env :=
  match e.rx with
  | c :: rest => (c.take n, { e with rx := if c.length ≤ n then rest else c.drop n :: rest })
  | [] => ((Config.rxAnswer e.drawn).take n, { e with drawn := e.drawn + 1 })

/-- What one port event took from the environment. -/
def Env.consume (e : Env) : Event → Env
  | .tx _ _ => e.takeTx.2
  | .rx n _ _ => (e.takeRx n).2
  | .sleep _ => e

/-- A port event enters the trace (10_state.md R36). -/
def State.log (ev : Event) (s : State) : State := { s with trace := s.trace ++ [ev] }

/-- `TxWrite(bytes) -> ok | fail` (20_memory.md R58). -/
def txWrite (bytes : List Byte) (s : State) : Bool × State :=
  (s.env.takeTx.1, { s with env := s.env.takeTx.2, trace := s.trace ++ [.tx bytes s.env.takeTx.1] })

/-- `RxRead(n, cls) -> bytes` (20_memory.md R59). -/
def rxRead (n : Nat) (cls : ReadClass) (s : State) : List Byte × State :=
  ((s.env.takeRx n).1,
    { s with env := (s.env.takeRx n).2, trace := s.trace ++ [.rx n cls (s.env.takeRx n).1] })

/-- `Sleep(ms)`: recorded in the trace, then returns (20_memory.md R60, 70_reset_and_hazards.md R255,
log 14). -/
def sleep (ms : Word) (s : State) : State := s.log (.sleep ms)

/-- Bytes arrive: they stand at the end of the receive stream (10_state.md R35). -/
def State.deliver (bytes : List Byte) (s : State) : State :=
  { s with env := { s.env with rx := s.env.rx ++ [bytes] } }

/-! ## Reset -/

/-- Reset of a running machine: every register as after reset, no command in progress, the trace empty;
what is outside the engine is not undone (70_reset_and_hazards.md R240, R242, log 12). -/
def State.warmReset (s : State) : State :=
  { State.reset with env := s.env, inbox := s.inbox, hostData := s.hostData }

end Sys2Proof.Machine
end

