-- ==== Sys2Proof/Machine/Flags.lean ====
section
/-! DEFINITION. The flags of STAT (10_state.md R32) and what the start and the return of a command do to
them and to the result registers (R22, R31). No operation reads a flag. -/

namespace Sys2Proof.Machine

/-- One flag at its bit. -/
def flagBit (b : Bool) (bit : Byte) : Byte := if b then bit else 0

/-- `STAT` as the host reads it: bit 0 busy, bit 1 done, bit 2 valid, bits 7:3 read 0 (10_state.md R20,
R32). -/
def State.stat (s : State) : Byte :=
  flagBit s.ctl.busy 0x01 ||| flagBit s.ctl.done 0x02 ||| flagBit s.ctl.valid 0x04

/-- A command starts: `cur_op` is its opcode, `busy` 1, `done` 0, `valid` 0, every result register 0
(10_state.md R22, R31, R32). -/
def State.begin (op : Byte) (s : State) : State :=
  { s with
    ctl := { s.ctl with busy := true, done := false, valid := false, curOp := op, midway := false }
    res := Results.zero }

/-- A command returns: `busy` 0, `done` 1 (10_state.md R31, R32). -/
def State.finish (s : State) : State :=
  { s with ctl := { s.ctl with busy := false, done := true, midway := false } }

end Sys2Proof.Machine
end

