-- ==== Sys2Proof/Machine/Operands.lean ====
section
/-! DEFINITION. The operand forms of the commands (30_encoding.md R97) with the tests that make an
operand illegal (R98): `none` is the command's `CallerMisuse`. -/

namespace Sys2Proof.Machine

/-- `DBUF[A_OFF .. A_OFF + A_LEN − 1]` of CRC16; illegal when the range leaves the buffer, the sum taken
without wrap-around (40_checksum.md R124). -/
def Operands.crcBytes (o : Operands) : Option (List Byte) :=
  if Config.maxFrame < o.off.toNat + o.len.toNat then none
  else some (o.dbuf.readBytes o.off.toNat o.len.toNat)

/-- `DBUF[0 .. A_LEN − 1]` of ENCODE; illegal above 56 bytes (41_frame_codec.md R132). -/
def Operands.encodePayload (o : Operands) : Option (List Byte) :=
  if Config.maxPayload < o.len.toNat then none else some (o.dbuf.readBytes 0 o.len.toNat)

/-- `DBUF[0 .. A_LEN − 1]` of DECODE; illegal above 64 bytes (41_frame_codec.md R136). -/
def Operands.decodeBytes (o : Operands) : Option (List Byte) :=
  if Config.maxFrame < o.len.toNat then none else some (o.dbuf.readBytes 0 o.len.toNat)

/-- `A_LEN` as `max_len` of READ_FRAME; legal from 1 to 64 (42_stream_framer.md R155). -/
def Operands.readMaxLen (o : Operands) : Option Nat :=
  if o.len = 0 ∨ Config.maxFrame < o.len.toNat then none else some o.len.toNat

/-- `A_MAXRETRIES` of CAPTURE_PLATE; legal from 0 to 25 (44_capture_orchestrator.md R195). -/
def Operands.retriesLegal (o : Operands) : Bool := decide (o.maxRetries.toNat ≤ Config.maxRetriesLimit)

/-- The 31-byte payload of UPDATE_BOARD (43_device_handlers.md R168, 30_encoding.md R90). -/
def Operands.boardPayload (o : Operands) : List Byte := wmrPayload 0 o.board.toList

end Sys2Proof.Machine
end

