-- ==== Sys2Proof/Machine/ChecksumUnit.lean ====
section
/-! DEFINITION. The command CRC16 (spec/40_checksum.md R124). -/

namespace Sys2Proof.Machine

/-- CRC16 between its start and its return (R124). -/
def crc16Body (s : State) : State :=
  match s.ops.crcBytes with
  | none => s.reportError .callerMisuse
  | some b => ((s.setCrc (crc16 b)).setResultCrc (crc16 b)).reportOk

/-- `CRC16`, opcode 0x01 (40_checksum.md R124). -/
def execCrc16 (s : State) : Host.Outcome State Fault Refusal :=
  .next (crc16Body (s.begin 0x01)).finish

end Sys2Proof.Machine
end

