-- ==== Sys2Proof/Machine/FrameCodec.lean ====
section
/-! DEFINITION. The frame codec (spec/41_frame_codec.md): `encode` into txbuf, `decode_and_verify`, and
the commands ENCODE and DECODE. -/

namespace Sys2Proof.Machine

/-- `encode(a, f, p, t)` (41_frame_codec.md R130): the frame, which txbuf now holds; on a payload above
56 bytes `CallerMisuse`, and nothing is written (R131). -/
def buildRequest (a f : Byte) (p : List Byte) (t : Tag) (s : State) :
    Except Err (List Byte) × State :=
  if Config.maxFrame < p.length + Config.overhead then (.error .callerMisuse, s)
  else
    (.ok (requestFrame a f p t),
      (s.latchTx (requestFrame a f p t)).setCrc (crc16 (requestBody a f p t)))

/-- `decode_and_verify(b, ea, ef)` (41_frame_codec.md R133) with the accumulator it leaves: no checksum
is computed on fewer than 5 bytes (log 13). -/
def verifyFrame (b : List Byte) (ea ef : Byte) (s : State) : Except Err (List Byte) × State :=
  (decodeAndVerify b ea ef,
    if b.length < Config.minFrame then s else s.setCrc (crc16 (frameBody b)))

/-- ENCODE between its start and its return (41_frame_codec.md R132). -/
def encodeBody (s : State) : State :=
  match s.ops.encodePayload with
  | none => s.reportError .callerMisuse
  | some p =>
    let r := buildRequest s.ops.addr s.ops.func p s.ops.tag s
    match r.1 with
    | .ok fr => (r.2.setOutput fr).reportOk
    | .error e => r.2.reportError e

/-- `ENCODE`, opcode 0x02 (41_frame_codec.md R132). -/
def execEncodeFrame (s : State) : Host.Outcome State Fault Refusal :=
  .next (encodeBody (s.begin 0x02)).finish

/-- DECODE between its start and its return (41_frame_codec.md R136). -/
def decodeBody (s : State) : State :=
  match s.ops.decodeBytes with
  | none => s.reportError .callerMisuse
  | some b =>
    let r := verifyFrame b s.ops.addr s.ops.func s
    match r.1 with
    | .ok p => (r.2.setOutput p).reportOk
    | .error e => r.2.reportError e

/-- `DECODE`, opcode 0x03 (41_frame_codec.md R136). -/
def execDecodeFrame (s : State) : Host.Outcome State Fault Refusal :=
  .next (decodeBody (s.begin 0x03)).finish

end Sys2Proof.Machine
end

