-- ==== Sys2Proof/Machine/StreamFramer.lean ====
section
/-! DEFINITION. The stream framer (spec/42_stream_framer.md): `read_frame` and the command READ_FRAME. -/

namespace Sys2Proof.Machine

/-- The completion test on the bytes buffered so far (42_stream_framer.md R151). The predicted length
is a natural number, never wrapped to 8 bits (30_encoding.md R92). -/
def frameComplete (b : List Byte) : Bool :=
  decide (Config.minFrame ≤ b.length) &&
    (if byteAt b 1 = Config.fcRhr then decide ((byteAt b 2).toNat + Config.rhrOverhead ≤ b.length)
     else decide (Config.ackLen ≤ b.length))

/-- The loop of `read_frame` (42_stream_framer.md R154) with `acc` = `rxbuf[0 .. rxlen − 1]` and `e` =
`empty_polls`. `fuel` bounds the reads still made; `readFrame` gives more than R157 item 3 allows, so
the case 0 is never met. -/
def assemble : Nat → Nat → List Byte → Nat → State → List Byte × State
  | 0, _, acc, e, s => (acc, s.latchRx acc e)
  | fuel + 1, maxLen, acc, e, s =>
    if frameComplete acc then (acc, s.latchRx acc e)
    else if maxLen ≤ acc.length then (acc, s.latchRx acc e)
    else
      let r := rxRead (maxLen - acc.length) .next s
      if r.1 = [] then
        if e + 1 = Config.kEmpty then (acc, r.2.latchRx acc (e + 1))
        else assemble fuel maxLen acc (e + 1) r.2
      else assemble fuel maxLen (acc ++ r.1) 0 r.2

/-- `read_frame(max_len)` (42_stream_framer.md R154): the first read is of class FIRST, and nothing at
all ends the call at once (R147, R148). -/
def readFrame (maxLen : Nat) (s : State) : List Byte × State :=
  let r := rxRead maxLen .first s
  if r.1 = [] then ([], r.2.latchRx [] 0) else assemble (3 * maxLen) maxLen r.1 0 r.2

/-- READ_FRAME between its start and its return (42_stream_framer.md R155). -/
def readFrameBody (s : State) : State :=
  match s.ops.readMaxLen with
  | none => s.reportError .callerMisuse
  | some n =>
    let r := readFrame n s
    (r.2.setOutput r.1).reportOk

/-- `READ_FRAME`, opcode 0x04 (42_stream_framer.md R155). -/
def execReadFrame (s : State) : Host.Outcome State Fault Refusal :=
  .next (readFrameBody (s.begin 0x04)).finish

end Sys2Proof.Machine
end

