-- ==== Sys2Proof/Machine/DeviceHandlers.lean ====
section
/-! DEFINITION. The device protocol handlers (spec/43_device_handlers.md): the exchange `transact`, the
five handlers and their commands. -/

namespace Sys2Proof.Machine

/-- The verdict on what `read_frame` returned, in the order of 43_device_handlers.md R162. -/
def judgeResponse (rx : List Byte) (a f : Byte) (s : State) : Except Err (List Byte) × State :=
  if s.work.wrFail then (.error .transportWriteFailure, s)
  else if rx = [] then (.error .timeout, s)
  else verifyFrame rx a f s

/-- From the frame in txbuf on: TxWrite, the guard delay, `read_frame(64)`, the verdict
(43_device_handlers.md R160, R161). -/
def exchange (frame : List Byte) (a f : Byte) (s : State) : Except Err (List Byte) × State :=
  let w := txWrite frame s
  let r := readFrame Config.maxFrame (sleep Config.tGuard (w.2.setWrFail (!w.1)))
  judgeResponse r.1 a f r.2

/-- `transact(addr, func, payload, tag)`: one exchange (43_device_handlers.md R160). -/
def transact (a f : Byte) (p : List Byte) (t : Tag) (s : State) : Except Err (List Byte) × State :=
  let b := buildRequest a f p t (s.latchRequest a f t)
  match b.1 with
  | .error e => (.error e, b.2)
  | .ok frame => exchange frame a f b.2

/-- A result with its payload looked at; the state is left as it is. -/
def andThen {α β : Type} (r : Except Err α × State) (g : α → Except Err β) : Except Err β × State :=
  match r.1 with
  | .ok v => (g v, r.2)
  | .error e => (.error e, r.2)

/-- `write_register(addr, tag, v)`: register 1 (43_device_handlers.md R163); the acknowledgement's
payload is dropped. -/
def writeRegister (a : Byte) (t : Tag) (v : Half) (s : State) : Except Err Unit × State :=
  andThen (transact a Config.fcWmr (wmrPayload Config.regTrigger [v]) t s) fun _ => .ok ()

/-- `trigger_capture(camera_address, auth_tag)` (43_device_handlers.md R164). -/
def triggerCapture (a : Byte) (t : Tag) (s : State) : Except Err Unit × State := writeRegister a t 1 s

/-- `reset_trigger(camera_address, auth_tag)` (43_device_handlers.md R167). -/
def resetTrigger (a : Byte) (t : Tag) (s : State) : Except Err Unit × State := writeRegister a t 0 s

/-- The status byte of a `read_status` payload: `P[2]` (43_device_handlers.md R165). -/
def statusOfPayload (p : List Byte) : Except Err Byte :=
  if (byteAt p 0).toNat < 2 ∨ p.length < 3 then .error .shortPayload else .ok (byteAt p 2)

/-- `read_status(camera_address, auth_tag)` (43_device_handlers.md R165). -/
def readStatus (a : Byte) (t : Tag) (s : State) : Except Err Byte × State :=
  andThen (transact a Config.fcRhr (rhrPayload Config.regStatus 1) t s) statusOfPayload

/-- The LprReading of a `read_data` payload: status `P[2]`, plate `P[5 .. 12]`, confidence `P[14]`, error
code `P[16]` (43_device_handlers.md R166). -/
def readingOfPayload (p : List Byte) : Except Err Reading :=
  if (byteAt p 0).toNat < Config.minDataBytes ∨ p.length < 17 then .error .shortPayload
  else .ok
    { status := byteAt p 2
      plate := #v[byteAt p 5, byteAt p 6, byteAt p 7, byteAt p 8, byteAt p 9, byteAt p 10,
        byteAt p 11, byteAt p 12]
      confidence := byteAt p 14
      errorCode := byteAt p 16 }

/-- `read_data(camera_address, auth_tag)` (43_device_handlers.md R166). -/
def readData (a : Byte) (t : Tag) (s : State) : Except Err Reading × State :=
  andThen (transact a Config.fcRhr (rhrPayload Config.regStatus Config.nDataRegs) t s) readingOfPayload

/-- `update_board(auth_tag, BoardState)`, its payload built from the 13 values (43_device_handlers.md
R168): always to address 0x20. -/
def updateBoard (p : List Byte) (t : Tag) (s : State) : Except Err Unit × State :=
  andThen (transact Config.addrBoard Config.fcWmr p t s) fun _ => .ok ()

/-- How a handler command reports (43_device_handlers.md R169): `store` writes the command's own result
registers. -/
def reportHandler {α : Type} (r : Except Err α × State) (store : α → State → State) : State :=
  match r.1 with
  | .ok v => store v r.2.reportOk
  | .error e => r.2.reportError e

/-- `TRIGGER_CAPTURE`, opcode 0x10 (43_device_handlers.md R164). -/
def execTriggerCapture (s : State) : Host.Outcome State Fault Refusal :=
  .next (reportHandler (triggerCapture s.ops.addr s.ops.tag (s.begin 0x10)) fun _ t => t).finish

/-- `READ_STATUS`, opcode 0x11 (43_device_handlers.md R165). -/
def execReadStatus (s : State) : Host.Outcome State Fault Refusal :=
  .next (reportHandler (readStatus s.ops.addr s.ops.tag (s.begin 0x11)) State.setStatus).finish

/-- `READ_DATA`, opcode 0x12 (43_device_handlers.md R166). -/
def execReadData (s : State) : Host.Outcome State Fault Refusal :=
  .next (reportHandler (readData s.ops.addr s.ops.tag (s.begin 0x12)) State.setReading).finish

/-- `RESET_TRIGGER`, opcode 0x13 (43_device_handlers.md R167). -/
def execResetTrigger (s : State) : Host.Outcome State Fault Refusal :=
  .next (reportHandler (resetTrigger s.ops.addr s.ops.tag (s.begin 0x13)) fun _ t => t).finish

/-- `UPDATE_BOARD`, opcode 0x14 (43_device_handlers.md R168); A_ADDR is not read. -/
def execUpdateBoard (s : State) : Host.Outcome State Fault Refusal :=
  .next (reportHandler (updateBoard s.ops.boardPayload s.ops.tag (s.begin 0x14)) fun _ t => t).finish

end Sys2Proof.Machine
end

