-- ==== Sys2Proof/Machine/Orchestrator.lean ====
section
/-! DEFINITION. The capture orchestrator (spec/44_capture_orchestrator.md): its transitions (R180 to
R193), the whole operation as their iteration (R194), and the command CAPTURE_PLATE (R195). -/

namespace Sys2Proof.Machine

/-- `backoff(k) = 100 × 2^k` ms, a 32-bit number (44_capture_orchestrator.md R190). -/
def backoff (k : Byte) : Word := BitVec.ofNat 32 (Config.tBackoff * 2 ^ k.toNat)

/-- Into `Failed`, and the command returns (44_capture_orchestrator.md R193). -/
def captureFail (s : State) : State :=
  ((s.setOrch .failed).showAttempt.reportError .failed).finish

/-- Into `Succeeded` with the reading, and the command returns (44_capture_orchestrator.md R193). -/
def captureSucceed (r : Reading) (s : State) : State :=
  (((s.setOrch .succeeded).showAttempt.setReading r).reportOk).finish

/-- Trigger failure: the sleep comes before the test (44_capture_orchestrator.md R184). -/
def triggerFailed (s : State) : State :=
  let t := sleep (backoff s.bumpAttempt.work.attempt) s.bumpAttempt
  if t.work.attempt < t.ops.maxRetries then t.setOrch .idle else captureFail t

/-- The retry/backoff step after status Error or exhaustion: the test comes before the sleep
(44_capture_orchestrator.md R192). -/
def retryOrFail (s : State) : State :=
  let t := s.bumpAttempt
  if t.work.attempt < t.ops.maxRetries then (sleep (backoff t.work.attempt) t).setOrch .idle
  else captureFail t

/-- `Idle` (44_capture_orchestrator.md R183). -/
def orchIdle (s : State) : State :=
  if s.ops.maxRetries ≤ s.work.attempt then captureFail s
  else
    let r := triggerCapture s.ops.addr s.ops.tag s
    match r.1 with
    | .ok _ => r.2.setOrch .triggered
    | .error _ => triggerFailed r.2

/-- `Triggered`: passed through at once (44_capture_orchestrator.md R185). -/
def orchTriggered (s : State) : State := s.clearPolls.setOrch .polling

/-- A poll that is not terminal: the cadence wait (44_capture_orchestrator.md R189). -/
def cadence (s : State) : State := (sleep Config.tPoll s).addElapsed

/-- Status Ok: `read_data`, then on success the best-effort `reset_trigger`, whose result is dropped
(44_capture_orchestrator.md R187). -/
def fetchReading (s : State) : State :=
  let d := readData s.ops.addr s.ops.tag s
  match d.1 with
  | .ok reading => captureSucceed reading (resetTrigger d.2.ops.addr d.2.ops.tag d.2).2
  | .error _ => cadence d.2

/-- One poll and what its outcome leads to (44_capture_orchestrator.md R186 to R189). -/
def pollOnce (s : State) : State :=
  let r := readStatus s.ops.addr s.ops.tag s
  match r.1 with
  | .ok v =>
    if v = StatusName.ok.ordinal then fetchReading r.2
    else if v = StatusName.error.ordinal then retryOrFail r.2
    else cadence r.2
  | .error _ => cadence r.2

/-- `Polling` (44_capture_orchestrator.md R186, R191). -/
def orchPolling (s : State) : State :=
  if s.work.pollBudget ≤ s.work.pollCount then retryOrFail s else pollOnce s.bumpPoll

/-- One transition of the state machine (44_capture_orchestrator.md R180); there is none out of a
terminal state. -/
def orchStep (s : State) : State :=
  match s.ctl.orch with
  | .idle => orchIdle s
  | .triggered => orchTriggered s
  | .polling => orchPolling s
  | .succeeded => s
  | .failed => s

/-- Transitions one after the other until the command returns, at most `fuel` of them. -/
def captureLoop : Nat → State → State
  | 0, s => s
  | fuel + 1, s => if s.ctl.busy then captureLoop fuel (orchStep s) else s

/-- More transitions than a call can make: a cycle makes at most `poll_budget + 3`
(44_capture_orchestrator.md R196), and there are at most `max_retries` cycles. -/
def captureFuel (s : State) : Nat := (s.ops.maxRetries.toNat + 1) * (s.work.pollBudget.toNat + 4)

/-- The first statements of CAPTURE_PLATE: the test of `max_retries`, then the entry
(44_capture_orchestrator.md R182, R195). -/
def captureStart (s : State) : State :=
  let t := s.begin 0x20
  if t.ops.retriesLegal then (t.openSession.setOrch .idle).enterLoop
  else (t.reportError .callerMisuse).finish

/-- The rest of CAPTURE_PLATE, from wherever it stands. -/
def captureRest (s : State) : State := captureLoop (captureFuel s) s

/-- `CAPTURE_PLATE`, opcode 0x20 (44_capture_orchestrator.md R195). -/
def execCapturePlate (s : State) : Host.Outcome State Fault Refusal :=
  .next (captureRest (captureStart s))

end Sys2Proof.Machine
end

