-- ==== Sys2Proof/Machine/Wire.lean ====
section
/-! DEFINITION. The six wire frame kinds of the opcode table (spec/30_encoding.md R80 to R87, log 6): a
request is the exchange that sends it (43_device_handlers.md R160, R161), a response is its arrival in
the receive stream (10_state.md R35). -/

namespace Sys2Proof.Machine

/-- `RHR_REQUEST` (30_encoding.md R80, R85): the exchange that sends the frame; no result register is
written, since no command is in progress (log 6). -/
def execRhrRequest (a : Byte) (start qty : Half) (t : Tag) (s : State) :
    Host.Outcome State Fault Refusal :=
  .next (transact a Config.fcRhr (rhrPayload start qty) t s).2

/-- `WMR_REQUEST` (30_encoding.md R80, R84): the exchange that sends the frame; a payload above 56 bytes
sends nothing (41_frame_codec.md R131). -/
def execWmrRequest (a : Byte) (start : Half) (values : List Half) (t : Tag) (s : State) :
    Host.Outcome State Fault Refusal :=
  .next (transact a Config.fcWmr (wmrPayload start values) t s).2

/-- `RHR_RESPONSE` (30_encoding.md R81, R86): the frame arrives. -/
def execRhrResponse (a : Byte) (data : List Byte) (s : State) : Host.Outcome State Fault Refusal :=
  .next (s.deliver (responseFrame a Config.fcRhr (rhrResponsePayload data)))

/-- `WMR_ACK` (30_encoding.md R81, R87): the frame arrives. -/
def execWmrAck (a p0 p1 p2 p3 : Byte) (s : State) : Host.Outcome State Fault Refusal :=
  .next (s.deliver (responseFrame a Config.fcWmr [p0, p1, p2, p3]))

/-- `RHR_EXCEPTION` (30_encoding.md R81, R83): the frame arrives. -/
def execRhrException (a code : Byte) (rest : List Byte) (s : State) :
    Host.Outcome State Fault Refusal :=
  .next (s.deliver (responseFrame a (Config.fcRhr ||| Config.excBit) (code :: rest)))

/-- `WMR_EXCEPTION` (30_encoding.md R81, R83): the frame arrives. -/
def execWmrException (a code : Byte) (rest : List Byte) (s : State) :
    Host.Outcome State Fault Refusal :=
  .next (s.deliver (responseFrame a (Config.fcWmr ||| Config.excBit) (code :: rest)))

end Sys2Proof.Machine
end

