-- ==== Sys2Proof/Machine/Dispatch.lean ====
section
/-! DEFINITION. One arm per instruction of spec/opcode_table.json. -/

namespace Sys2Proof.Machine

def exec (i : Instr) (s : State) : Host.Outcome State Fault Refusal :=
  match i with
  | .crc16 => Sys2Proof.Machine.execCrc16 s
  | .encodeFrame => Sys2Proof.Machine.execEncodeFrame s
  | .decodeFrame => Sys2Proof.Machine.execDecodeFrame s
  | .readFrame => Sys2Proof.Machine.execReadFrame s
  | .triggerCapture => Sys2Proof.Machine.execTriggerCapture s
  | .readStatus => Sys2Proof.Machine.execReadStatus s
  | .readData => Sys2Proof.Machine.execReadData s
  | .resetTrigger => Sys2Proof.Machine.execResetTrigger s
  | .updateBoard => Sys2Proof.Machine.execUpdateBoard s
  | .capturePlate => Sys2Proof.Machine.execCapturePlate s
  | .rhrRequest a start qty t => Sys2Proof.Machine.execRhrRequest a start qty t s
  | .rhrResponse a data => Sys2Proof.Machine.execRhrResponse a data s
  | .wmrRequest a start values t => Sys2Proof.Machine.execWmrRequest a start values t s
  | .wmrAck a p0 p1 p2 p3 => Sys2Proof.Machine.execWmrAck a p0 p1 p2 p3 s
  | .rhrException a code rest => Sys2Proof.Machine.execRhrException a code rest s
  | .wmrException a code rest => Sys2Proof.Machine.execWmrException a code rest s

end Sys2Proof.Machine
end

