-- ==== Sys2Proof/Machine/HostPort.lean ====
section
/-! DEFINITION. The host's side of the register file (10_state.md R20, 20_memory.md R50, R57, R67): a
register is written and read whole, by its number. -/

namespace Sys2Proof.Machine

/-- The host writes CMD with `busy = 0`: the command starts (10_state.md R31). -/
def State.start (op : Byte) (s : State) : State :=
  { s with ops := { s.ops with cmd := op } }.begin op

/-- The tag with byte `k` replaced; byte 0 is first on the wire (10_state.md R20). -/
def setTagByte (t : Tag) (k : Nat) (b : Byte) : Tag :=
  if k = 0 then { t with t0 := b }
  else if k = 1 then { t with t1 := b }
  else if k = 2 then { t with t2 := b }
  else { t with t3 := b }

/-- Byte `k` of the tag. -/
def tagByte (t : Tag) (k : Nat) : Byte :=
  if k = 0 then t.t0 else if k = 1 then t.t1 else if k = 2 then t.t2 else t.t3

/-- The operand latches after a host write of `v` to operand register `reg`, which takes the low bits of
its width (log 10); `none` where `reg` is no operand register (10_state.md R20, R21). -/
def Operands.write (o : Operands) (reg : Nat) (v : Word) : Option Operands :=
  if reg = 2 then some { o with addr := v.setWidth 8 }
  else if reg = 3 then some { o with func := v.setWidth 8 }
  else if reg = 4 then some { o with off := v.setWidth 8 }
  else if reg = 5 then some { o with len := v.setWidth 8 }
  else if 6 ≤ reg ∧ reg ≤ 9 then some { o with tag := setTagByte o.tag (reg - 6) (v.setWidth 8) }
  else if reg = 10 then some { o with maxRetries := v.setWidth 8 }
  else if reg = 11 then some { o with timeout := v }
  else if 64 ≤ reg ∧ reg ≤ 76 then some { o with board := o.board.set! (reg - 64) (v.setWidth 16) }
  else if 128 ≤ reg ∧ reg ≤ 191 then
    some { o with dbuf := o.dbuf.write (reg - 128) (v.setWidth 8) }
  else none

/-- The registers the host may only read: STAT, the result registers and OBUF (10_state.md R20, R22). -/
def readOnlyRegister (reg : Nat) : Bool :=
  decide (reg = 1 ∨ (12 ≤ reg ∧ reg ≤ 21) ∨ (32 ≤ reg ∧ reg ≤ 39) ∨ (192 ≤ reg ∧ reg ≤ 255))

/-- The host writes register `reg` (20_memory.md R67, 70_reset_and_hazards.md R249): ignored while
busy; CMD starts a command; a read-only register keeps its value; a number R20 does not assign faults
(log 10). -/
def hostWrite (reg : Nat) (v : Word) (s : State) : Host.Outcome State Fault Refusal :=
  if s.ctl.busy then .next s
  else if reg = 0 then .next (s.start (v.setWidth 8))
  else
    match s.ops.write reg v with
    | some o => .next { s with ops := o }
    | none => if readOnlyRegister reg then .next s else .fault (.unmappedRegister reg)

/-- What register `reg` holds, zero-extended; `none` for a number R20 does not assign. -/
def State.register (s : State) (reg : Nat) : Option Word :=
  if reg = 0 then some (s.ops.cmd.setWidth 32)
  else if reg = 1 then some (s.stat.setWidth 32)
  else if reg = 2 then some (s.ops.addr.setWidth 32)
  else if reg = 3 then some (s.ops.func.setWidth 32)
  else if reg = 4 then some (s.ops.off.setWidth 32)
  else if reg = 5 then some (s.ops.len.setWidth 32)
  else if 6 ≤ reg ∧ reg ≤ 9 then some ((tagByte s.ops.tag (reg - 6)).setWidth 32)
  else if reg = 10 then some (s.ops.maxRetries.setWidth 32)
  else if reg = 11 then some s.ops.timeout
  else if reg = 12 then some (s.res.err.setWidth 32)
  else if reg = 13 then some (s.res.exc.setWidth 32)
  else if reg = 14 then some (s.res.crc.setWidth 32)
  else if reg = 15 then some (s.res.len.setWidth 32)
  else if reg = 16 then some (s.res.status.setWidth 32)
  else if reg = 17 then some (s.res.reading.status.setWidth 32)
  else if reg = 18 then some (s.res.reading.confidence.setWidth 32)
  else if reg = 19 then some (s.res.reading.errorCode.setWidth 32)
  else if reg = 20 then some (s.res.orch.setWidth 32)
  else if reg = 21 then some (s.res.attempt.setWidth 32)
  else if 32 ≤ reg ∧ reg ≤ 39 then some ((s.res.reading.plate.toList.getD (reg - 32) 0).setWidth 32)
  else if 64 ≤ reg ∧ reg ≤ 76 then some ((s.ops.board.toList.getD (reg - 64) 0).setWidth 32)
  else if 128 ≤ reg ∧ reg ≤ 191 then some ((s.ops.dbuf.read (reg - 128)).setWidth 32)
  else if 192 ≤ reg ∧ reg ≤ 255 then some ((s.res.obuf.read (reg - 192)).setWidth 32)
  else none

/-- Whether a host read of `reg` meets no rule: while busy only STAT and R_ORCH read meaningfully
(20_memory.md R67). -/
def State.readIsFree (s : State) (reg : Nat) : Bool := s.ctl.busy && reg != 1 && reg != 20

/-- The host reads register `reg`: `hostData` holds what was read and no register changes; a read that
meets no rule returns a free value (20_memory.md R67, log 11). -/
def hostRead (reg : Nat) (s : State) : Host.Outcome State Fault Refusal :=
  match s.register reg with
  | none => .fault (.unmappedRegister reg)
  | some held =>
    if s.readIsFree reg then
      .next { s with
        hostData := Config.busyRead reg s.env.drawn
        env := { s.env with drawn := s.env.drawn + 1 } }
    else .next { s with hostData := held }

end Sys2Proof.Machine
end

