-- ==== Sys2Proof/Machine/Sequencer.lean ====
section
/-! DEFINITION. The sequencer (10_state.md R31): which instruction is in progress, how it is run, and
what each move does. -/

namespace Sys2Proof.Machine

/-- An opcode outside the ten: the command returns at once with `CallerMisuse` (30_encoding.md R98, log 4). -/
def illegalCommand (s : State) : State := ((s.begin s.ctl.curOp).reportError .callerMisuse).finish

/-- The command in progress, from where it stands to its return (10_state.md R31). -/
def runCommand (s : State) : Host.Outcome State Fault Refusal :=
  if s.ctl.midway then .next (captureRest s)
  else
    match decode .cmd [s.ctl.curOp] with
    | .ok i => exec i s
    | .error _ => .next (illegalCommand s)

/-- A turn of the engine: nothing when it is idle (60_exceptions.md R232); one transition of
CAPTURE_PLATE, its first statements being one too; any other command whole (log 9). -/
def engineTurn (s : State) : Host.Outcome State Fault Refusal :=
  if s.ctl.busy then
    if s.ctl.midway then .next (orchStep s)
    else if s.ctl.curOp = Instr.capturePlate.opcode then .next (captureStart s)
    else runCommand s
  else .next s

/-- No move is waiting: the command in progress runs to its return; an idle engine keeps all its
registers (60_exceptions.md R232). -/
def engineRun (s : State) : Host.Outcome State Fault Refusal :=
  if s.ctl.busy then runCommand s else .next s

/-- Reset after `k` more port events of the command in progress: it is abandoned with no result; what
those events took from the environment stays taken (70_reset_and_hazards.md R242). -/
def abandonAfter (k : Nat) (s : State) : Host.Outcome State Fault Refusal :=
  match engineRun s with
  | .next t =>
    let seen := (t.trace.drop s.trace.length).take k
    .next { s with env := seen.foldl Env.consume s.env }.warmReset
  | .fault r => .fault r
  | .refused r => .refused r

/-- Bytes arrive: a frame of the opcode table as its instruction, any other bytes as they are
(70_reset_and_hazards.md R247, R251). -/
def arriveBytes (b : List Byte) (s : State) : Host.Outcome State Fault Refusal :=
  match decode .response b with
  | .ok i => exec i s
  | .error _ => .next (s.deliver b)

/-- One exchange with a given request frame; while a command is in progress no other party may write to
the line (70_reset_and_hazards.md R245), so nothing happens. -/
def sendBytes (b : List Byte) (s : State) : Host.Outcome State Fault Refusal :=
  if s.ctl.busy then .next s
  else
    match decode .request b with
    | .ok i => exec i s
    | .error _ => .refused .malformedRequest

/-- What one move does. -/
def applyMove (m : Move) (s : State) : Host.Outcome State Fault Refusal :=
  match m with
  | .write reg v => hostWrite reg v s
  | .read reg => hostRead reg s
  | .reset => .next s.warmReset
  | .resetAfter k => abandonAfter k s
  | .engine => engineTurn s
  | .arrive b => arriveBytes b s
  | .send b => sendBytes b s

/-- The next move, or the engine's run when none is waiting. -/
def advance (s : State) : Host.Outcome State Fault Refusal :=
  match s.inbox with
  | [] => engineRun s
  | m :: rest => applyMove m { s with inbox := rest }

/-- The words of an instruction put where the next step finds them: a value of CMD as the host's write
to CMD leaves it, a response as bytes about to arrive, a request as bytes about to be sent by an idle
engine (log 5, log 7). -/
def placeWords (lane : Lane) (b : List Byte) (s : State) : State :=
  match lane with
  | .cmd => { s with inbox := [] }.start (byteAt b 0)
  | .response => { s with inbox := [.arrive b] }
  | .request => { s with inbox := [.send b], ctl := { s.ctl with busy := false } }

end Sys2Proof.Machine
end

