-- ==== Sys2Proof/Machine/Step.lean ====
section
/-! DEFINITION. One step of the machine, and where the words of an instruction stand for it. -/

namespace Sys2Proof.Machine

/-- One step: the next move of `inbox`, or, when none is waiting, the command in progress to its
return. -/
def step (s : State) : Host.Outcome State Fault Refusal := advance s

/-- `s` with the instruction of `nbits` table bits `w` placed so that the next step runs it (log 7). -/
def State.withFetchWord (s : State) (nbits w : Nat) : State :=
  placeWords (tableWords nbits w).1 (tableWords nbits w).2 s

end Sys2Proof.Machine
end

