-- ==== Sys2Proof/Safety.lean ====
section
/-! DEFINITION. What a safe run is, in the terms the statements use: the turn-taking of the half-duplex
line, the bounds of the buffers, what the registers may hold, and the shape of an exchange. -/

namespace Sys2Proof.Machine

/-! ## Turn-taking on the line (20_memory.md R64, R65) -/

/-- Where the line stands between two port events. -/
inductive LinePhase where
  /-- No exchange in progress, no read just made. -/
  | between
  /-- A request has been handed to the transport and nothing has followed. -/
  | sent
  /-- The guard delay has followed the request. -/
  | guarded
  /-- A frame is being read. -/
  | reading
  /-- The rule has been broken. -/
  | broken
deriving DecidableEq, Repr

/-- What one port event does to the line: after a write only `Sleep(50)`, after that only a FIRST read; a
NEXT read only after a read (20_memory.md R64, R65, 42_stream_framer.md R157). -/
def LinePhase.next : LinePhase → Event → LinePhase
  | .between, .tx _ _ => .sent
  | .between, .rx _ .first _ => .reading
  | .between, .rx _ .next _ => .broken
  | .between, .sleep _ => .between
  | .reading, .tx _ _ => .sent
  | .reading, .rx _ _ _ => .reading
  | .reading, .sleep _ => .between
  | .sent, .sleep ms => if ms = Config.tGuard then .guarded else .broken
  | .sent, _ => .broken
  | .guarded, .rx _ .first _ => .reading
  | .guarded, _ => .broken
  | .broken, _ => .broken

/-- The trace keeps strict turn-taking and stands between two exchanges: every write has been followed
by the guard delay and by a read. -/
def turnTaking (tr : List Event) : Bool :=
  match tr.foldl LinePhase.next .between with
  | .between => true
  | .reading => true
  | .sent => false
  | .guarded => false
  | .broken => false

/-! ## Runs -/

/-- `n` steps, stopping at the first fault or refusal. -/
def runSteps : Nat → State → Host.Outcome State Fault Refusal
  | 0, s => .next s
  | n + 1, s =>
    match step s with
    | .next t => runSteps n t
    | .fault r => .fault r
    | .refused r => .refused r

/-! ## Events -/

/-- The bytes the reads among the events returned, in order. -/
def bytesRead (evs : List Event) : List Byte :=
  evs.flatMap fun ev =>
    match ev with
    | .rx _ _ b => b
    | .tx _ _ => []
    | .sleep _ => []

/-- The event is a read of class NEXT. -/
def isNextRead : Event → Bool
  | .rx _ .next _ => true
  | .rx _ .first _ => false
  | .tx _ _ => false
  | .sleep _ => false

/-- The events are those of one `read_frame(n)`: a FIRST read for `n` bytes, then only NEXT reads
(42_stream_framer.md R147, R149, R157). -/
def isFrameRead (n : Nat) : List Event → Bool
  | .rx m .first _ :: rest => m == n && rest.all isNextRead
  | _ => false

/-- The events are those of one exchange of `frame`: one TxWrite, one `Sleep(50)`, one `read_frame(64)`
(43_device_handlers.md R161). -/
def isExchange (frame : List Byte) : List Event → Bool
  | .tx b _ :: .sleep ms :: rest => b == frame && ms == 50 && isFrameRead 64 rest
  | _ => false

/-- The consecutive empty reads after one more event, `n` of them before it: a FIRST read and a read that
brings bytes start from 0 (42_stream_framer.md R146, R150). -/
def countEmpty (n : Nat) : Event → Nat
  | .rx _ .first _ => 0
  | .rx _ .next b => if b = [] then n + 1 else 0
  | .tx _ _ => n
  | .sleep _ => n

/-- How many reads in a row are empty at the end of the events (10_state.md R26). -/
def emptyReads (evs : List Event) : Nat := evs.foldl countEmpty 0

/-- How many frames the events hand to the transport. -/
def countTx (evs : List Event) : Nat :=
  evs.countP fun ev =>
    match ev with
    | .tx _ _ => true
    | .rx _ _ _ => false
    | .sleep _ => false

/-- The total of the sleeps among the events, in ms (10_state.md R36). -/
def totalSleep (evs : List Event) : Nat :=
  (evs.map fun ev =>
    match ev with
    | .sleep ms => ms.toNat
    | .tx _ _ => 0
    | .rx _ _ _ => 0).sum

/-! ## Registers and buffers -/

/-- The buffer reads as `bytes` from index 0 on, and as `old` at every other index. -/
def holdsOver (m : Memory) (bytes : List Byte) (old : Memory) : Prop :=
  ∀ j, m.read j = if j < bytes.length then byteAt bytes j else old.read j

/-- A buffer is in canonical form and within its 64 bytes (20_memory.md R70). -/
def bufferOk (m : Memory) : Bool := m.wf && m.within Config.maxFrame

/-- The four buffers are in canonical form and within their bounds. -/
def State.buffersOk (s : State) : Bool :=
  bufferOk s.ops.dbuf && bufferOk s.res.obuf && bufferOk s.work.txbuf && bufferOk s.work.rxbuf

/-- The sequencer and the flags agree (10_state.md R27, R31, R32): a busy engine is not done and shows
no reading; CAPTURE_PLATE stands between transitions only while busy, in a state that is not terminal,
which R_ORCH shows; without `valid` the LprReading registers are 0; `valid` comes with success. -/
def State.sequencerOk (s : State) : Bool :=
  (!s.ctl.busy || (!s.ctl.done && !s.ctl.valid && s.res.err == okCode)) &&
  (!s.ctl.midway || (s.ctl.busy && s.res.orch == s.ctl.orch.code &&
    s.ctl.orch != .succeeded && s.ctl.orch != .failed)) &&
  (s.ctl.valid || s.res.reading == Reading.zero) &&
  (!s.ctl.valid || (s.ctl.done && s.res.err == okCode))

/-- The result registers hold only what the rules can write: a code of 60_exceptions.md R210 in R_ERR,
R_EXC other than 0 only with DeviceException (R214), a state number in R_ORCH (30_encoding.md R96), at
most 64 in R_LEN. -/
def State.resultsOk (s : State) : Bool :=
  decide (s.res.err ≤ 0x0A) && (s.res.exc == 0 || s.res.err == 0x04) && decide (s.res.orch ≤ 4) &&
  decide (s.res.len ≤ 64)

/-! ## Requests of the handlers (30_encoding.md R90), written out in bytes -/

/-- The request a handler command sends, as 30_encoding.md R90 writes it; `none` for the other
instructions. -/
def handlerRequest (o : Operands) : Instr → Option (List Byte)
  | .triggerCapture =>
    some (withChecksum ([o.addr, 0x10, 0, 1, 0, 1, 2, 0, 1, o.tag.t0, o.tag.t1, o.tag.t2, o.tag.t3]))
  | .resetTrigger =>
    some (withChecksum ([o.addr, 0x10, 0, 1, 0, 1, 2, 0, 0, o.tag.t0, o.tag.t1, o.tag.t2, o.tag.t3]))
  | .readStatus =>
    some (withChecksum ([o.addr, 0x03, 0, 0, 0, 1, o.tag.t0, o.tag.t1, o.tag.t2, o.tag.t3]))
  | .readData =>
    some (withChecksum ([o.addr, 0x03, 0, 0, 0, 8, o.tag.t0, o.tag.t1, o.tag.t2, o.tag.t3]))
  | .updateBoard =>
    some (withChecksum ([0x20, 0x10, 0, 0, 0, 0x0D, 0x1A] ++ o.board.toList.flatMap be16 ++
      [o.tag.t0, o.tag.t1, o.tag.t2, o.tag.t3]))
  | .crc16 => none
  | .encodeFrame => none
  | .decodeFrame => none
  | .readFrame => none
  | .capturePlate => none
  | .rhrRequest _ _ _ _ => none
  | .rhrResponse _ _ => none
  | .wmrRequest _ _ _ _ => none
  | .wmrAck _ _ _ _ _ => none
  | .rhrException _ _ _ => none
  | .wmrException _ _ _ => none

/-- The address and the function a handler command expects in its response: those of its request
(43_device_handlers.md R160). -/
def handlerExpects (o : Operands) : Instr → Option (Byte × Byte)
  | .triggerCapture => some (o.addr, 0x10)
  | .resetTrigger => some (o.addr, 0x10)
  | .readStatus => some (o.addr, 0x03)
  | .readData => some (o.addr, 0x03)
  | .updateBoard => some (0x20, 0x10)
  | .crc16 => none
  | .encodeFrame => none
  | .decodeFrame => none
  | .readFrame => none
  | .capturePlate => none
  | .rhrRequest _ _ _ _ => none
  | .rhrResponse _ _ => none
  | .wmrRequest _ _ _ _ => none
  | .wmrAck _ _ _ _ _ => none
  | .rhrException _ _ _ => none
  | .wmrException _ _ _ => none

/-! ## The frame of a command -/

/-- The sequencer and flags after a command with opcode `op` has returned, from `c` (10_state.md R31,
R32): `valid` is `v`, orch_state is untouched. -/
def Control.returned (c : Control) (op : Byte) (v : Bool) : Control :=
  { c with busy := false, done := true, valid := v, curOp := op, midway := false }

/-- The verdict of an exchange whose write answered `ok` and whose read brought `rx`, in the order of
43_device_handlers.md R162. -/
def verdict (ok : Bool) (rx : List Byte) (a f : Byte) : Except Err (List Byte) :=
  if ok = false then .error .transportWriteFailure
  else if rx = [] then .error .timeout
  else decodeAndVerify rx a f

/-- What no exchange touches: the operand latches, the orchestrator's working registers, the coming
moves and what the host read last. -/
def outsideExchange (s t : State) : Prop :=
  t.ops = s.ops ∧ t.inbox = s.inbox ∧ t.hostData = s.hostData ∧
  t.work.attempt = s.work.attempt ∧ t.work.pollCount = s.work.pollCount ∧
  t.work.pollBudget = s.work.pollBudget ∧ t.work.elapsed = s.work.elapsed

/-- The working registers after an exchange of `frame` under address `a`, function `f` and tag `tag`, in
which the write answered `ok` and `evs` were the reads (43_device_handlers.md R160, 10_state.md R24 to
R26, R30): the accumulator holds the response's checksum if one was verified on at least 5 bytes, else
the request's (log 13). -/
def exchangeRegisters (a f : Byte) (tag : Tag) (frame : List Byte) (evs : List Event) (ok : Bool)
    (s t : State) : Prop :=
  let rx := bytesRead evs
  t.work.hAddr = a ∧ t.work.hFunc = f ∧ t.work.hTag = tag ∧ t.work.wrFail = !ok ∧
  t.work.txlen.toNat = frame.length ∧ holdsOver t.work.txbuf frame s.work.txbuf ∧
  t.work.rxlen.toNat = rx.length ∧ holdsOver t.work.rxbuf rx s.work.rxbuf ∧
  t.work.emptyPolls.toNat = emptyReads evs ∧
  t.work.crc = crc16 (frameBody (if ok = true ∧ 5 ≤ rx.length then rx else frame))

end Sys2Proof.Machine
end

