-- ==== Sys2Proof/Certificates/Slice0/Obligations.lean ====
section
/-! DEFINITION. The statements for the provers, each a Prop; OBLIGATIONS.json lists them. -/

open Sys2Proof Sys2Proof.Machine

/-! ## Decoder and encoder -/

/-- Every well-formed instruction, command or frame, is read back from its encoding (30_encoding.md R80 to
R87, R97). -/
def Obligations.DecodeOfEncodeIsTheInstruction : Prop :=
  ∀ i : Instr, i.wf = true → decode i.lane (encode i) = .ok i

/-- Bytes that decode are the encoding of what they decode to: no second spelling, nothing dropped. -/
def Obligations.EncodeOfDecodedIsTheBytes : Prop :=
  ∀ (l : Lane) (b : List Byte) (i : Instr), decode l b = .ok i →
    encode i = b ∧ i.lane = l ∧ i.wf = true

/-- A few words written out from the spec's encodings (30_encoding.md R97, 95_test_vectors.md). -/
def Obligations.WrittenWordsDecode : Prop :=
  decode .cmd [0x01] = .ok .crc16 ∧ decode .cmd [0x14] = .ok .updateBoard ∧
  decode .cmd [0x20] = .ok .capturePlate ∧
  decode .request [0x11, 0x03, 0x00, 0x00, 0x00, 0x08, 0x31, 0x32, 0x33, 0x34, 0x6F, 0x72] =
    .ok (.rhrRequest 0x11 0 8 ⟨0x31, 0x32, 0x33, 0x34⟩) ∧
  decode .request [0x11, 0x10, 0x00, 0x01, 0x00, 0x01, 0x02, 0x00, 0x01, 0x31, 0x32, 0x33, 0x34,
    0xCA, 0x18] = .ok (.wmrRequest 0x11 1 [1] ⟨0x31, 0x32, 0x33, 0x34⟩) ∧
  decode .response [0x11, 0x03, 0x02, 0x00, 0x01, 0xB8, 0x47] = .ok (.rhrResponse 0x11 [0, 1]) ∧
  decode .response [0x11, 0x10, 0x00, 0x01, 0x00, 0x01, 0x52, 0x99] = .ok (.wmrAck 0x11 0 1 0 1) ∧
  decode .response [0x11, 0x83, 0x02, 0xC1, 0x34] = .ok (.rhrException 0x11 2 []) ∧
  decode .response [0x11, 0x90, 0x04, 0xAA, 0xBB, 0x8A, 0x11] =
    .ok (.wmrException 0x11 4 [0xAA, 0xBB])

/-- The requests of the five handlers, byte for byte as 30_encoding.md R90 writes them, are the table's
request frames with the fields the source names. -/
def Obligations.HandlerRequestsAreTableFrames : Prop :=
  ∀ o : Operands,
    handlerRequest o .triggerCapture = some (encode (.wmrRequest o.addr 1 [1] o.tag)) ∧
    handlerRequest o .resetTrigger = some (encode (.wmrRequest o.addr 1 [0] o.tag)) ∧
    handlerRequest o .readStatus = some (encode (.rhrRequest o.addr 0 1 o.tag)) ∧
    handlerRequest o .readData = some (encode (.rhrRequest o.addr 0 8 o.tag)) ∧
    handlerRequest o .updateBoard = some (encode (.wmrRequest 0x20 0 o.board.toList o.tag))

/-- A step with no move waiting and a command just started runs the instruction its opcode decodes to; a
step at which a response frame arrives, or an idle engine is to send a request frame, runs that frame's
instruction on the state without the move. How words come to be run by a step, and what a frame row does,
is the model's choice (log 5, log 6). -/
def Obligations.StepRunsTheDecodedInstruction : Prop :=
  (∀ (s : State) (i : Instr), s.inbox = [] → s.ctl.busy = true → s.ctl.midway = false →
    decode .cmd [s.ctl.curOp] = .ok i → step s = exec i s) ∧
  (∀ (s : State) (i : Instr) (b : List Byte) (rest : List Move), s.inbox = .arrive b :: rest →
    decode .response b = .ok i → step s = exec i { s with inbox := rest }) ∧
  (∀ (s : State) (i : Instr) (b : List Byte) (rest : List Move), s.inbox = .send b :: rest →
    s.ctl.busy = false → decode .request b = .ok i → step s = exec i { s with inbox := rest })

/-! ## Checksum -/

/-- The table method gives the same result (40_checksum.md R123): entry `k` of the 256-entry table is the
byte step on accumulator 0. -/
def Obligations.CrcTableMethodAgrees : Prop :=
  ∀ bytes : List Byte,
    crc16 bytes = bytes.foldl (fun (c : Half) (b : Byte) => (c >>> 8) ^^^ crcByte 0 (c.setWidth 8 ^^^ b))
      (0xFFFF : Half)

/-- The checksum of bytes together with their own checksum field is 0 (the observation of
95_test_vectors.md section 2.1). -/
def Obligations.CrcOfChecksummedBytesIsZero : Prop :=
  ∀ b : List Byte, crc16 (b ++ le16 (crc16 b)) = 0

/-- CRC16 on a legal range: R_CRC is the checksum of the range, every other result register 0, no port
event, and outside the result registers only the flags, cur_op and the accumulator change (40_checksum.md
R124, 10_state.md R22). That the accumulator keeps the checksum after the command is the model's reading
(log 13). -/
def Obligations.Crc16ComputesTheRange : Prop :=
  ∀ s : State, s.ops.off.toNat + s.ops.len.toNat ≤ 64 →
    let c := crc16 (s.ops.dbuf.readBytes s.ops.off.toNat s.ops.len.toNat)
    exec .crc16 s = .next { s with
      res := { Results.zero with crc := c }
      ctl := s.ctl.returned 0x01 false
      work := { s.work with crc := c } }

/-! ## Frame codec -/

/-- ENCODE: OBUF and txbuf hold the request frame, R_LEN its length; above 56 bytes CallerMisuse; no port
event; nothing else changes but the flags, cur_op, txlen and the accumulator (41_frame_codec.md R132). What
the accumulator and the bytes of txbuf above the frame hold afterwards is the model's reading (log 13). -/
def Obligations.EncodeBuildsTheFrame : Prop :=
  ∀ s : State, s.work.txbuf.wf = true →
    let body := s.ops.addr :: s.ops.func :: s.ops.dbuf.readBytes 0 s.ops.len.toNat ++
      [s.ops.tag.t0, s.ops.tag.t1, s.ops.tag.t2, s.ops.tag.t3]
    (s.ops.len.toNat ≤ 56 →
      ∃ obuf txbuf, holdsOver obuf (withChecksum body) Memory.empty ∧
        holdsOver txbuf (withChecksum body) s.work.txbuf ∧
        exec .encodeFrame s = .next { s with
          res := { Results.zero with obuf := obuf, len := s.ops.len + 8 }
          ctl := s.ctl.returned 0x02 false
          work := { s.work with
            crc := crc16 body, txbuf := txbuf, txlen := BitVec.ofNat 7 (s.ops.len.toNat + 8) } }) ∧
    (56 < s.ops.len.toNat →
      exec .encodeFrame s = .next { s with
        res := { Results.zero with err := 0x09 }
        ctl := s.ctl.returned 0x02 false })

/-- The round trip (41_frame_codec.md R137): the decoder accepts an encoded frame and returns the payload
followed by the four tag bytes, for every function value. -/
def Obligations.DecodeOfRequestFrameReturnsPayloadAndTag : Prop :=
  ∀ (a f : Byte) (p : List Byte) (t : Tag), p.length ≤ 56 →
    decodeAndVerify (requestFrame a f p t) a f = .ok (p ++ [t.t0, t.t1, t.t2, t.t3])

/-- Tamper detection (41_frame_codec.md R138): one bit flipped in the last two bytes of an encoded frame is
a ChecksumMismatch. -/
def Obligations.FlippedChecksumBitIsDetected : Prop :=
  ∀ (a f : Byte) (p : List Byte) (t : Tag) (j k : Nat), p.length ≤ 56 → k < 8 →
    let fr := requestFrame a f p t
    (j = fr.length - 2 ∨ j = fr.length - 1) →
    decodeAndVerify (fr.set j (byteAt fr j ^^^ (1#8 <<< k))) a f = .error .checksumMismatch

/-- Exception propagation (41_frame_codec.md R139): a frame with a good checksum from the expected address,
its function byte the expected one OR 0x80, is a DeviceException with the first payload byte as code,
whatever else the payload holds. -/
def Obligations.ExceptionFrameYieldsItsCode : Prop :=
  ∀ (a ef code : Byte) (q : List Byte), ef.getLsbD 7 = false →
    decodeAndVerify
      ([a, ef ||| 0x80] ++ (code :: q) ++ le16 (crc16 ([a, ef ||| 0x80] ++ (code :: q)))) a ef =
      .error (.deviceException code)

/-- The decoder's tests in the order listed (41_frame_codec.md R134): length, checksum, address, function,
and equality with the expected function before the exception test. -/
def Obligations.DecoderTestsInTheListedOrder : Prop :=
  ∀ (b : List Byte) (ea ef : Byte),
    (b.length < 5 → decodeAndVerify b ea ef = .error .frameTooShort) ∧
    (5 ≤ b.length →
      let good := byteAt b (b.length - 2) = (crc16 (b.take (b.length - 2))).setWidth 8 ∧
        byteAt b (b.length - 1) = (crc16 (b.take (b.length - 2)) >>> 8).setWidth 8
      (¬ good → decodeAndVerify b ea ef = .error .checksumMismatch) ∧
      (good → byteAt b 0 ≠ ea → decodeAndVerify b ea ef = .error .addressMismatch) ∧
      (good → byteAt b 0 = ea → byteAt b 1 = ef →
        decodeAndVerify b ea ef = .ok ((b.drop 2).take (b.length - 4))) ∧
      (good → byteAt b 0 = ea → byteAt b 1 ≠ ef → byteAt b 1 = ef ||| 0x80 →
        decodeAndVerify b ea ef = .error (.deviceException (byteAt b 2))) ∧
      (good → byteAt b 0 = ea → byteAt b 1 ≠ ef → byteAt b 1 ≠ ef ||| 0x80 →
        decodeAndVerify b ea ef = .error .functionMismatch))

/-- DECODE (41_frame_codec.md R136): the payload in OBUF and its length in R_LEN, or the decoder's error
with OBUF 0 and R_LEN 0 and, for a device exception, its code in R_EXC; above 64 bytes CallerMisuse; no
port event; outside the result registers only the flags, cur_op and the accumulator change. That the
accumulator keeps the checksum after the command is the model's reading (log 13). -/
def Obligations.DecodeReportsTheVerdict : Prop :=
  ∀ s : State,
    let b := s.ops.dbuf.readBytes 0 s.ops.len.toNat
    let crc := if s.ops.len.toNat < 5 then s.work.crc else crc16 (b.take (s.ops.len.toNat - 2))
    (s.ops.len.toNat ≤ 64 →
      (∀ p, decodeAndVerify b s.ops.addr s.ops.func = .ok p →
        ∃ obuf, holdsOver obuf p Memory.empty ∧
          exec .decodeFrame s = .next { s with
            res := { Results.zero with obuf := obuf, len := BitVec.ofNat 8 p.length }
            ctl := s.ctl.returned 0x03 false
            work := { s.work with crc := crc } }) ∧
      (∀ e, decodeAndVerify b s.ops.addr s.ops.func = .error e →
        exec .decodeFrame s = .next { s with
          res := { Results.zero with err := e.code, exc := e.exc }
          ctl := s.ctl.returned 0x03 false
          work := { s.work with crc := crc } })) ∧
    (64 < s.ops.len.toNat →
      exec .decodeFrame s = .next { s with
        res := { Results.zero with err := 0x09 }
        ctl := s.ctl.returned 0x03 false })

/-- The codes of the table (60_exceptions.md R210); only DeviceException carries a value, the device's
exception code (R214). -/
def Obligations.ErrorCodesAreTheTable : Prop :=
  Err.checksumMismatch.code = 0x01 ∧ Err.addressMismatch.code = 0x02 ∧
  Err.functionMismatch.code = 0x03 ∧ (∀ k, (Err.deviceException k).code = 0x04) ∧
  Err.frameTooShort.code = 0x05 ∧ Err.shortPayload.code = 0x06 ∧ Err.timeout.code = 0x07 ∧
  Err.transportWriteFailure.code = 0x08 ∧ Err.callerMisuse.code = 0x09 ∧ Err.failed.code = 0x0A ∧
  (∀ k, (Err.deviceException k).exc = k) ∧
  (∀ e : Err, e.exc ≠ 0 → ∃ k, e = .deviceException k)

/-! ## Illegal commands and operands -/

/-- The illegal opcodes and operands (30_encoding.md R98): CallerMisuse, every other result register 0, no
port event, and nothing else changes but the flags and cur_op. -/
def Obligations.IllegalCommandsAreCallerMisuse : Prop :=
  ∀ s : State,
    let misuse := fun (op : Byte) => Host.Outcome.next (φ := Fault) (ρ := Refusal) { s with
      res := { Results.zero with err := 0x09 }
      ctl := s.ctl.returned op false }
    (s.inbox = [] → s.ctl.busy = true → s.ctl.midway = false →
      s.ctl.curOp ∉ ([0x01, 0x02, 0x03, 0x04, 0x10, 0x11, 0x12, 0x13, 0x14, 0x20] : List Byte) →
      step s = misuse s.ctl.curOp) ∧
    (64 < s.ops.off.toNat + s.ops.len.toNat → exec .crc16 s = misuse 0x01) ∧
    (56 < s.ops.len.toNat → exec .encodeFrame s = misuse 0x02) ∧
    (64 < s.ops.len.toNat → exec .decodeFrame s = misuse 0x03) ∧
    (s.ops.len = 0 ∨ 64 < s.ops.len.toNat → exec .readFrame s = misuse 0x04) ∧
    (25 < s.ops.maxRetries.toNat → exec .capturePlate s = misuse 0x20)

/-! ## Stream framer -/

/-- The bounds of one `read_frame` (42_stream_framer.md R157): its length, when it is empty, how many reads
it makes and of which class, and that its result is all they brought, in order. -/
def Obligations.ReadFrameBounds : Prop :=
  ∀ (n : Nat) (s : State), 1 ≤ n →
    ∃ first nexts,
      (readFrame n s).2.trace = s.trace ++ .rx n .first first :: nexts ∧
      nexts.all isNextRead = true ∧
      (readFrame n s).1 = bytesRead (.rx n .first first :: nexts) ∧
      (readFrame n s).1.length ≤ n ∧
      ((readFrame n s).1 = [] ↔ first = []) ∧
      (Event.rx n .first first :: nexts).length ≤ 3 * n - 2

/-- READ_FRAME on a legal `max_len` (42_stream_framer.md R155): OBUF holds what one `read_frame` read,
R_LEN its length, R_ERR is Ok; it stopped because the frame was complete, the buffer full, three reads in a
row were empty or nothing came at all; only rxbuf, rxlen and empty_polls of the working registers change.
That bytes of rxbuf above rxlen are kept is the model's reading (log 13). -/
def Obligations.ReadFrameCommandReturnsWhatArrived : Prop :=
  ∀ s : State, 1 ≤ s.ops.len.toNat → s.ops.len.toNat ≤ 64 → s.work.rxbuf.wf = true →
    ∃ first nexts obuf rxbuf polls,
      let evs := Event.rx s.ops.len.toNat .first first :: nexts
      let fr := bytesRead evs
      nexts.all isNextRead = true ∧ fr.length ≤ s.ops.len.toNat ∧
      holdsOver obuf fr Memory.empty ∧ holdsOver rxbuf fr s.work.rxbuf ∧
      (first = [] ∧ nexts = [] ∨ frameComplete fr = true ∨ fr.length = s.ops.len.toNat ∨ polls = 3) ∧
      polls.toNat = emptyReads evs ∧
      exec .readFrame s = .next { s with
        res := { Results.zero with obuf := obuf, len := BitVec.ofNat 8 fr.length }
        ctl := s.ctl.returned 0x04 false
        work := { s.work with rxbuf := rxbuf, rxlen := BitVec.ofNat 7 fr.length, emptyPolls := polls }
        trace := s.trace ++ evs
        env := evs.foldl Env.consume s.env }

/-- Splitting does not matter (42_stream_framer.md R156): a read response delivered in any number of
non-empty pieces, each but the first preceded by at most two empty reads, is returned whole, and what
follows it stays in the stream; a first read that is empty, or three empty reads after a first piece, end
the call short. -/
def Obligations.SplittingDoesNotMatter : Prop :=
  ∀ (n : Nat) (s : State) (first : List Byte) (pieces : List (Nat × List Byte))
    (later : List (List Byte)),
    let F := first ++ pieces.flatMap (·.2)
    byteAt F 1 = 0x03 → F.length = (byteAt F 2).toNat + 5 → F.length ≤ n → n ≤ 64 →
    first ≠ [] → (∀ q ∈ pieces, q.1 ≤ 2 ∧ q.2 ≠ []) →
    s.env.rx = first :: (pieces.flatMap fun q => List.replicate q.1 [] ++ [q.2]) ++ later →
    ((readFrame n s).1 = F ∧ (readFrame n s).2.env.rx = later) ∧
    (∀ tail, (readFrame n { s with env := { s.env with rx := [] :: tail } }).1 = []) ∧
    (pieces ≠ [] →
      ∀ tail, (readFrame n { s with env := { s.env with rx := first :: [] :: [] :: [] :: tail } }).1 =
        first)

/-- A 5-byte frame that is no read response costs three empty reads and is returned (42_stream_framer.md
R158). -/
def Obligations.ExceptionFrameEndsByTheIdleCutoff : Prop :=
  ∀ (s : State) (b : List Byte) (rest : List (List Byte)), b.length = 5 → byteAt b 1 ≠ 0x03 →
    s.env.rx = b :: [] :: [] :: [] :: rest →
    (readFrame 64 s).1 = b ∧
    (readFrame 64 s).2.trace = s.trace ++
      [.rx 64 .first b, .rx 59 .next [], .rx 59 .next [], .rx 59 .next []] ∧
    (readFrame 64 s).2.env.rx = rest

/-! ## Device handlers -/

/-- The guaranteed side effect (43_device_handlers.md R161): every handler command, and every handler call
of the orchestrator, whatever the outcome, makes exactly one TxWrite of its request (30_encoding.md R90),
one `Sleep(50)` and the reads of one `read_frame(64)`. -/
def Obligations.HandlerMakesExactlyOneExchange : Prop :=
  (∀ (i : Instr) (s : State) (frame : List Byte), handlerRequest s.ops i = some frame →
    ∃ t ok first nexts, exec i s = .next t ∧
      t.trace = s.trace ++ .tx frame ok :: .sleep 50 :: .rx 64 .first first :: nexts ∧
      nexts.all isNextRead = true) ∧
  (∀ (o : Operands) (i : Instr) (s u : State),
    (i, u) ∈ [(.triggerCapture, (triggerCapture o.addr o.tag s).2),
      (.resetTrigger, (resetTrigger o.addr o.tag s).2),
      (.readStatus, (readStatus o.addr o.tag s).2),
      (.readData, (readData o.addr o.tag s).2),
      (.updateBoard, (updateBoard o.boardPayload o.tag s).2)] →
    ∃ evs, u.trace = s.trace ++ evs ∧
      isExchange ((handlerRequest o i).getD []) evs = true)

/-- What a handler command reports, in every case (43_device_handlers.md R162, R169): the failed write
before the timeout, the timeout before the decoder's error, ShortPayload last; on success its own result
registers; every other result register 0. -/
def Obligations.HandlerReportsTheFirstError : Prop :=
  ∀ (i : Instr) (s : State) (a f : Byte), handlerExpects s.ops i = some (a, f) →
    ∃ t ok rx evs, exec i s = .next t ∧
      t.trace = s.trace ++ .tx ((handlerRequest s.ops i).getD []) ok :: .sleep 50 :: evs ∧
      bytesRead evs = rx ∧ ok = s.env.takeTx.1 ∧
      let report := fun e => t.res = { Results.zero with err := Err.code e, exc := Err.exc e } ∧
        t.ctl = s.ctl.returned i.opcode false
      (ok = false → report .transportWriteFailure) ∧
      (ok = true → rx = [] → report .timeout) ∧
      (ok = true → rx ≠ [] → ∀ e, decodeAndVerify rx a f = .error e → report e) ∧
      (ok = true → rx ≠ [] → ∀ p, decodeAndVerify rx a f = .ok p →
        (i = .triggerCapture ∨ i = .resetTrigger ∨ i = .updateBoard →
          t.res = Results.zero ∧ t.ctl = s.ctl.returned i.opcode false) ∧
        (i = .readStatus →
          ((byteAt p 0).toNat < 2 ∨ p.length < 3 → report .shortPayload) ∧
          (2 ≤ (byteAt p 0).toNat → 3 ≤ p.length →
            t.res = { Results.zero with status := byteAt p 2 } ∧
            t.ctl = s.ctl.returned i.opcode false)) ∧
        (i = .readData →
          ((byteAt p 0).toNat < 16 ∨ p.length < 17 → report .shortPayload) ∧
          (16 ≤ (byteAt p 0).toNat → 17 ≤ p.length →
            t.res = { Results.zero with
              reading :=
                { status := byteAt p 2
                  plate := #v[byteAt p 5, byteAt p 6, byteAt p 7, byteAt p 8, byteAt p 9,
                    byteAt p 10, byteAt p 11, byteAt p 12]
                  confidence := byteAt p 14
                  errorCode := byteAt p 16 } } ∧
            t.ctl = s.ctl.returned i.opcode true)))

/-- What a handler command leaves alone, and what its exchange leaves in every working register it writes
(10_state.md R24 to R26, R30, 43_device_handlers.md R160): txbuf holds the request, rxbuf what was read,
every other byte of them as before; their lengths; the empty reads in a row at the end; the accumulator;
the latches. That the accumulator keeps the last checksum, and the two buffers their bytes outside the
exchange, is the model's reading (log 13). -/
def Obligations.HandlerFrame : Prop :=
  ∀ (i : Instr) (s t : State) (a f : Byte) (frame : List Byte), s.buffersOk = true →
    handlerExpects s.ops i = some (a, f) → handlerRequest s.ops i = some frame →
    exec i s = .next t →
    outsideExchange s t ∧ t.ctl.orch = s.ctl.orch ∧
    ∃ ok evs, t.trace = s.trace ++ .tx frame ok :: .sleep 50 :: evs ∧
      exchangeRegisters a f s.ops.tag frame evs ok s t ∧
      t.env = evs.foldl Env.consume s.env.takeTx.2

/-- The acknowledged write (43_device_handlers.md R163, R164, R167, R168): with the write taken and any
good 8-byte acknowledgement from the address of the request, TRIGGER_CAPTURE, RESET_TRIGGER and
UPDATE_BOARD end with Ok after one read; for UPDATE_BOARD that address is the board's, 0x20. -/
def Obligations.AcknowledgedWriteSucceeds : Prop :=
  ∀ (i : Instr) (s : State) (a p0 p1 p2 p3 : Byte) (frame : List Byte) (txs : List Bool)
    (rxs : List (List Byte)),
    i = .triggerCapture ∨ i = .resetTrigger ∨ i = .updateBoard →
    handlerExpects s.ops i = some (a, 0x10) → handlerRequest s.ops i = some frame →
    let ack := withChecksum [a, 0x10, p0, p1, p2, p3]
    s.env.tx = true :: txs → s.env.rx = ack :: rxs →
    ∃ t, exec i s = .next t ∧ t.res = Results.zero ∧ t.ctl = s.ctl.returned i.opcode false ∧
      t.trace = s.trace ++ [.tx frame true, .sleep 50, .rx 64 .first ack] ∧
      t.env = { s.env with tx := txs, rx := rxs } ∧ outsideExchange s t

/-- READ_STATUS on a good answer of one register (43_device_handlers.md R165): R_STATUS is the low byte,
any value of it; the high byte is ignored. -/
def Obligations.ReadStatusReturnsTheLowByte : Prop :=
  ∀ (s : State) (high low : Byte) (txs : List Bool) (rxs : List (List Byte)),
    let answer := withChecksum [s.ops.addr, 0x03, 2, high, low]
    s.env.tx = true :: txs → s.env.rx = answer :: rxs →
    ∃ t, exec .readStatus s = .next t ∧ t.res = { Results.zero with status := low } ∧
      t.ctl = s.ctl.returned 0x11 false ∧
      t.trace = s.trace ++ [.tx ((handlerRequest s.ops .readStatus).getD []) true, .sleep 50,
        .rx 64 .first answer] ∧
      t.env = { s.env with tx := txs, rx := rxs } ∧ outsideExchange s t

/-- READ_DATA on a good answer of eight registers (43_device_handlers.md R166): the reading's fields from
registers 0, 2 to 5, 6 and 7, `valid` set, STAT 0x06. -/
def Obligations.ReadDataDeliversTheReading : Prop :=
  ∀ (s : State) (r0 r1 r2 r3 r4 r5 r6 r7 : Half) (txs : List Bool) (rxs : List (List Byte)),
    let answer := withChecksum
      ([s.ops.addr, 0x03, 16] ++ [r0, r1, r2, r3, r4, r5, r6, r7].flatMap be16)
    s.env.tx = true :: txs → s.env.rx = answer :: rxs →
    ∃ t, exec .readData s = .next t ∧
      t.res = { Results.zero with
        reading :=
          { status := lo8 r0
            plate := #v[hi8 r2, lo8 r2, hi8 r3, lo8 r3, hi8 r4, lo8 r4, hi8 r5, lo8 r5]
            confidence := lo8 r6
            errorCode := lo8 r7 } } ∧
      t.ctl = s.ctl.returned 0x12 true ∧ t.stat = 0x06 ∧
      t.trace = s.trace ++ [.tx ((handlerRequest s.ops .readData).getD []) true, .sleep 50,
        .rx 64 .first answer] ∧
      t.env = { s.env with tx := txs, rx := rxs } ∧ outsideExchange s t

/-- A device exception (60_exceptions.md R214, 42_stream_framer.md R158): every handler reports 0x04 with
the device's code after three empty reads. -/
def Obligations.DeviceExceptionIsReported : Prop :=
  ∀ (i : Instr) (s : State) (a f code : Byte) (txs : List Bool) (rxs : List (List Byte)),
    handlerExpects s.ops i = some (a, f) →
    s.env.tx = true :: txs →
    s.env.rx = withChecksum [a, f ||| 0x80, code] :: [] :: [] :: [] :: rxs →
    ∃ t, exec i s = .next t ∧ t.res = { Results.zero with err := 0x04, exc := code } ∧
      t.stat = 0x02 ∧ t.env = { s.env with tx := txs, rx := rxs }

/-! ## Wire frames (the model's choice of what a frame row does: log 6) -/

/-- A request frame of the table: one exchange that sends it; no result register, flag or operand changes.
What the row does is the model's choice (log 6); its bytes are 30_encoding.md R80, R84, R85. -/
def Obligations.RequestFrameIsOneExchange : Prop :=
  ∀ (i : Instr) (s : State) (a f : Byte) (p : List Byte) (t : Tag), i.wf = true →
    s.buffersOk = true →
    (∃ start qty, i = .rhrRequest a start qty t ∧ f = 0x03 ∧
      p = [hi8 start, lo8 start, hi8 qty, lo8 qty]) ∨
    (∃ start values, i = .wmrRequest a start values t ∧ f = 0x10 ∧
      p = [hi8 start, lo8 start, 0, BitVec.ofNat 8 values.length,
        BitVec.ofNat 8 (2 * values.length)] ++ values.flatMap be16) →
    let frame := withChecksum (a :: f :: p ++ [t.t0, t.t1, t.t2, t.t3])
    ∃ u ok evs, exec i s = .next u ∧ u.trace = s.trace ++ .tx frame ok :: .sleep 50 :: evs ∧
      isFrameRead 64 evs = true ∧ u.res = s.res ∧ u.ctl = s.ctl ∧ outsideExchange s u ∧
      exchangeRegisters a f t frame evs ok s u ∧
      u.env = evs.foldl Env.consume s.env.takeTx.2

/-- A response frame of the table arrives: its bytes stand at the end of the receive stream and nothing
else changes. What the row does is the model's choice (log 6); its bytes are 30_encoding.md R81, R83, R86,
R87. -/
def Obligations.ResponseFrameJoinsTheStream : Prop :=
  ∀ (s : State) (a code p0 p1 p2 p3 : Byte) (data rest : List Byte),
    let arrived := fun (b : List Byte) => Host.Outcome.next (φ := Fault) (ρ := Refusal)
      { s with env := { s.env with rx := s.env.rx ++ [withChecksum b] } }
    exec (.rhrResponse a data) s =
      arrived (a :: 0x03 :: BitVec.ofNat 8 data.length :: data) ∧
    exec (.wmrAck a p0 p1 p2 p3) s = arrived [a, 0x10, p0, p1, p2, p3] ∧
    exec (.rhrException a code rest) s = arrived (a :: 0x83 :: code :: rest) ∧
    exec (.wmrException a code rest) s = arrived (a :: 0x90 :: code :: rest)

/-- A frame that arrived after an operation is the first thing the next READ_FRAME sees (10_state.md R35,
70_reset_and_hazards.md R247): a read response or an acknowledgement in an empty stream is returned whole.
That a frame row arrives as one chunk is the model's choice (log 6). -/
def Obligations.ArrivedFrameIsReadNext : Prop :=
  ∀ (i : Instr) (s : State), i.wf = true → s.env.rx = [] → s.ops.len = 64 →
    ((∃ a data, i = .rhrResponse a data) ∨ (∃ a p0 p1 p2 p3, i = .wmrAck a p0 p1 p2 p3)) →
    ∃ u t, exec i s = .next u ∧ exec .readFrame u = .next t ∧
      t.res.err = 0 ∧ t.res.len.toNat = (encode i).length ∧
      holdsOver t.res.obuf (encode i) Memory.empty ∧ t.env.rx = []

/-! ## Capture orchestrator -/

/-- CAPTURE_PLATE always returns, in one of three ways (44_capture_orchestrator.md R193, R195): refused
operand; Succeeded with a reading and fewer failed cycles than `max_retries`; Failed with `attempt` equal
to `max_retries`. Every result register is fixed, and the operands and the host's side are untouched. -/
def Obligations.CapturePlateAlwaysReturns : Prop :=
  ∀ s : State, ∃ t, exec .capturePlate s = .next t ∧
    t.ops = s.ops ∧ t.inbox = s.inbox ∧ t.hostData = s.hostData ∧
    t.ctl.busy = false ∧ t.ctl.done = true ∧ t.ctl.midway = false ∧ t.ctl.curOp = 0x20 ∧
    ((25 < s.ops.maxRetries.toNat ∧ t.res = { Results.zero with err := 0x09 } ∧
        t.ctl.valid = false ∧ t.ctl.orch = s.ctl.orch ∧ t.trace = s.trace ∧ t.env = s.env ∧
        t.work = s.work) ∨
      (s.ops.maxRetries.toNat ≤ 25 ∧ t.ctl.valid = true ∧ t.ctl.orch = .succeeded ∧
        ∃ (reading : Reading) (attempt : Byte), attempt < s.ops.maxRetries ∧
          t.work.attempt = attempt ∧
          t.res = { Results.zero with reading := reading, orch := 3, attempt := attempt }) ∨
      (s.ops.maxRetries.toNat ≤ 25 ∧ t.ctl.valid = false ∧ t.ctl.orch = .failed ∧
        t.work.attempt = s.ops.maxRetries ∧
        t.res = { Results.zero with err := 0x0A, orch := 4, attempt := s.ops.maxRetries }))

/-- `max_retries` = 0 fails at once with no port event (44_capture_orchestrator.md R183). -/
def Obligations.NoRetriesFailsAtOnce : Prop :=
  ∀ s : State, s.ops.maxRetries = 0 →
    exec .capturePlate s = .next { s with
      res := { Results.zero with err := 0x0A, orch := 4 }
      ctl := { s.ctl.returned 0x20 false with orch := .failed }
      work := { s.work with attempt := 0, pollBudget := s.ops.timeout / 100 } }

/-- Every trigger times out (44_capture_orchestrator.md R184, R196 item 4; program P4): `M` exchanges, each
followed by its backoff `100 × 2^k`, the last one too, and the end state is Failed with R_ATTEMPT = `M`. -/
def Obligations.EveryTriggerTimesOut : Prop :=
  ∀ (s : State) (M : Nat) (txs : List Bool) (rxs : List (List Byte)), 1 ≤ M → M ≤ 25 →
    s.ops.maxRetries = BitVec.ofNat 8 M →
    s.env.tx = List.replicate M true ++ txs → s.env.rx = List.replicate M [] ++ rxs →
    let frame := (handlerRequest s.ops .triggerCapture).getD []
    let cycles := (List.range M).flatMap fun k =>
      [.tx frame true, .sleep 50, .rx 64 .first [], .sleep (BitVec.ofNat 32 (100 * 2 ^ (k + 1)))]
    ∃ t, exec .capturePlate s = .next t ∧ t.trace = s.trace ++ cycles ∧
      totalSleep cycles = 100 * (2 ^ (M + 1) - 2) + 50 * M ∧
      t.res = { Results.zero with err := 0x0A, orch := 4, attempt := BitVec.ofNat 8 M } ∧
      t.env = { s.env with tx := txs, rx := rxs }

/-- With a budget of 0 polls (44_capture_orchestrator.md R191, R192; vector O5) every acknowledged trigger
is followed by no poll, by the backoff only when a retry follows, and the end state is Failed. -/
def Obligations.ZeroBudgetMakesNoPoll : Prop :=
  ∀ (s : State) (M : Nat) (txs : List Bool) (rxs : List (List Byte)), 1 ≤ M → M ≤ 25 →
    s.ops.maxRetries = BitVec.ofNat 8 M → s.ops.timeout.toNat < 100 →
    let ack := withChecksum [s.ops.addr, 0x10, 0, 1, 0, 1]
    s.env.tx = List.replicate M true ++ txs → s.env.rx = List.replicate M ack ++ rxs →
    let frame := (handlerRequest s.ops .triggerCapture).getD []
    ∃ t, exec .capturePlate s = .next t ∧
      t.trace = s.trace ++ (List.range M).flatMap (fun k =>
        [.tx frame true, .sleep 50, .rx 64 .first ack] ++
          (if k + 1 < M then [.sleep (BitVec.ofNat 32 (100 * 2 ^ (k + 1)))] else [])) ∧
      t.res = { Results.zero with err := 0x0A, orch := 4, attempt := BitVec.ofNat 8 M } ∧
      t.env = { s.env with tx := txs, rx := rxs }

/-- The normal capture (44_capture_orchestrator.md R194, program P3): trigger acknowledged, `N` polls that
answer a status that is neither Ok nor Error, each followed by the 100 ms cadence, then status Ok, the data
and the reset, whose own outcome (here: any bytes that end its one read) does not matter; the reading is
the data's, R_ATTEMPT 0, `poll_count` N + 1, `elapsed_poll_time` 100 N. -/
def Obligations.CaptureSucceedsAfterPolls : Prop :=
  ∀ (s : State) (N : Nat) (status : Byte) (r0 r1 r2 r3 r4 r5 r6 r7 : Half) (resetOk : Bool)
    (resetAnswer : List Byte) (txs : List Bool) (rxs : List (List Byte)),
    1 ≤ s.ops.maxRetries.toNat → s.ops.maxRetries.toNat ≤ 25 → N < s.ops.timeout.toNat / 100 →
    status ≠ 2 → status ≠ 3 → resetAnswer.length ≤ 64 →
    resetAnswer = [] ∨ frameComplete resetAnswer = true →
    let ack := withChecksum [s.ops.addr, 0x10, 0, 1, 0, 1]
    let poll := fun (v : Byte) => withChecksum [s.ops.addr, 0x03, 2, 0, v]
    let data := withChecksum
      ([s.ops.addr, 0x03, 16] ++ [r0, r1, r2, r3, r4, r5, r6, r7].flatMap be16)
    let req := fun (i : Instr) => (handlerRequest s.ops i).getD []
    s.env.tx = List.replicate (N + 3) true ++ resetOk :: txs →
    s.env.rx = ack :: List.replicate N (poll status) ++ poll 2 :: data :: resetAnswer :: rxs →
    ∃ t, exec .capturePlate s = .next t ∧
      t.trace = s.trace ++
        [.tx (req .triggerCapture) true, .sleep 50, .rx 64 .first ack] ++
        (List.replicate N [.tx (req .readStatus) true, .sleep 50, .rx 64 .first (poll status),
          .sleep 100]).flatten ++
        [.tx (req .readStatus) true, .sleep 50, .rx 64 .first (poll 2),
          .tx (req .readData) true, .sleep 50, .rx 64 .first data,
          .tx (req .resetTrigger) resetOk, .sleep 50, .rx 64 .first resetAnswer] ∧
      t.res = { Results.zero with
        orch := 3
        reading :=
          { status := lo8 r0
            plate := #v[hi8 r2, lo8 r2, hi8 r3, lo8 r3, hi8 r4, lo8 r4, hi8 r5, lo8 r5]
            confidence := lo8 r6
            errorCode := lo8 r7 } } ∧
      t.stat = 0x06 ∧ t.work.attempt = 0 ∧ t.work.pollCount = BitVec.ofNat 32 (N + 1) ∧
      t.work.elapsed = BitVec.ofNat 32 (100 * N) ∧ t.env = { s.env with tx := txs, rx := rxs }

/-- How many exchanges and events CAPTURE_PLATE makes at most (44_capture_orchestrator.md R196 item 3,
70_reset_and_hazards.md R254), with `M` = `max_retries` and `B` = `floor(timeout_ms / 100)`. -/
def Obligations.CapturePlateIsBounded : Prop :=
  ∀ (s t : State), exec .capturePlate s = .next t →
    let M := s.ops.maxRetries.toNat
    let B := s.ops.timeout.toNat / 100
    ∃ evs, t.trace = s.trace ++ evs ∧ countTx evs ≤ M * (1 + 2 * B) + 1 ∧
      evs.length ≤ (M * (1 + 2 * B) + 1) * 192 + M * (B + 1)

/-- `Triggered` is passed through at once (44_capture_orchestrator.md R185): one turn of the engine clears
the poll counters, enters `Polling`, which R_ORCH shows, and uses no port. A turn of the engine, one
transition of the orchestrator, is the model's granularity (log 9). -/
def Obligations.TriggeredEntersPolling : Prop :=
  ∀ (s : State) (rest : List Move), s.inbox = .engine :: rest → s.ctl.busy = true →
    s.ctl.midway = true → s.ctl.orch = .triggered →
    step s = .next { s with
      inbox := rest
      ctl := { s.ctl with orch := .polling }
      res := { s.res with orch := 2 }
      work := { s.work with pollCount := 0, elapsed := 0 } }

/-- A turn of the engine at `Idle` with a retry left (44_capture_orchestrator.md R183, R184): one trigger
exchange, whose verdict decides; on success `Triggered`; on any error `attempt` grows by one, the backoff
is slept, and only then is `attempt` tested: `Idle` again, or `Failed` and the command returns. A turn of
the engine, one transition of the orchestrator, is the model's granularity (log 9). -/
def Obligations.IdleTriggersOrBacksOff : Prop :=
  ∀ (s : State) (rest : List Move), s.inbox = .engine :: rest → s.ctl.busy = true →
    s.ctl.midway = true → s.ctl.orch = .idle → s.work.attempt < s.ops.maxRetries →
    s.ops.maxRetries.toNat ≤ 25 →
    let triggered := (triggerCapture s.ops.addr s.ops.tag { s with inbox := rest }).1
    ∃ t ok reads, step s = .next t ∧ isFrameRead 64 reads = true ∧ ok = s.env.takeTx.1 ∧
      triggered = (verdict ok (bytesRead reads) s.ops.addr 0x10).map (fun _ => ()) ∧
      let evs := .tx ((handlerRequest s.ops .triggerCapture).getD []) ok :: .sleep 50 :: reads
      (triggered = .ok () →
        t.ctl = { s.ctl with orch := .triggered } ∧ t.res = { s.res with orch := 1 } ∧
        t.work.attempt = s.work.attempt ∧ t.trace = s.trace ++ evs) ∧
      (∀ e, triggered = .error e →
        t.work.attempt.toNat = s.work.attempt.toNat + 1 ∧
        t.trace = s.trace ++ evs ++
          [.sleep (BitVec.ofNat 32 (100 * 2 ^ (s.work.attempt.toNat + 1)))] ∧
        (s.work.attempt.toNat + 1 < s.ops.maxRetries.toNat →
          t.ctl = s.ctl ∧ t.res = { s.res with orch := 0 }) ∧
        (s.ops.maxRetries.toNat ≤ s.work.attempt.toNat + 1 →
          t.ctl.orch = .failed ∧ t.ctl.busy = false ∧ t.ctl.done = true ∧
          t.res = { s.res with orch := 4, attempt := t.work.attempt, err := 0x0A, exc := 0 }))

/-- A turn of the engine at `Polling` with the budget used up (44_capture_orchestrator.md R191, R192):
`attempt` grows by one and is tested before any sleep. A turn of the engine, one transition of the
orchestrator, is the model's granularity (log 9). -/
def Obligations.ExhaustedPollingRetriesOrFails : Prop :=
  ∀ (s : State) (rest : List Move), s.inbox = .engine :: rest → s.ctl.busy = true →
    s.ctl.midway = true → s.ctl.orch = .polling → s.work.pollBudget ≤ s.work.pollCount →
    let k := s.work.attempt + 1
    (k < s.ops.maxRetries →
      step s = .next { s with
        inbox := rest
        ctl := { s.ctl with orch := .idle }
        res := { s.res with orch := 0 }
        work := { s.work with attempt := k }
        trace := s.trace ++ [.sleep (BitVec.ofNat 32 (100 * 2 ^ k.toNat))] }) ∧
    (s.ops.maxRetries ≤ k →
      step s = .next { s with
        inbox := rest
        ctl := { s.ctl with orch := .failed, busy := false, done := true, midway := false }
        res := { s.res with orch := 4, attempt := k, err := 0x0A, exc := 0 }
        work := { s.work with attempt := k } })

/-- A turn of the engine at `Polling` that polls (44_capture_orchestrator.md R186 to R189). For a good
status answer other than Ok: Error leaves the cycle at once, with no cadence wait; any other value is
followed by the 100 ms wait and stays in `Polling`. Whatever the port answers: a read_status that fails,
a status neither Ok nor Error, and a status Ok whose read_data fails are each followed by the 100 ms wait
and stay in `Polling`. A turn of the engine, one transition of the orchestrator, is the model's
granularity (log 9). -/
def Obligations.PollOutcomeDecides : Prop :=
  ∀ (s : State) (rest : List Move), s.inbox = .engine :: rest → s.ctl.busy = true →
    s.ctl.midway = true → s.ctl.orch = .polling → s.work.pollCount < s.work.pollBudget →
    (∀ (status : Byte) (txs : List Bool) (rxs : List (List Byte)),
      s.work.attempt < s.ops.maxRetries → s.ops.maxRetries.toNat ≤ 25 →
      let answer := withChecksum [s.ops.addr, 0x03, 2, 0, status]
      let polled := [.tx ((handlerRequest s.ops .readStatus).getD []) true, .sleep 50,
        .rx 64 .first answer]
      s.env.tx = true :: txs → s.env.rx = answer :: rxs →
      ∃ t, step s = .next t ∧ t.work.pollCount = s.work.pollCount + 1 ∧
        (status = 3 → t.work.attempt = s.work.attempt + 1 ∧ t.work.elapsed = s.work.elapsed ∧
          (s.work.attempt.toNat + 1 < s.ops.maxRetries.toNat →
            t.ctl.orch = .idle ∧ t.trace = s.trace ++ polled ++
              [.sleep (BitVec.ofNat 32 (100 * 2 ^ (s.work.attempt.toNat + 1)))]) ∧
          (s.work.attempt.toNat + 1 = s.ops.maxRetries.toNat →
            t.ctl.orch = .failed ∧ t.res.err = 0x0A ∧ t.trace = s.trace ++ polled)) ∧
        (status ≠ 2 → status ≠ 3 → t.ctl.orch = .polling ∧ t.work.attempt = s.work.attempt ∧
          t.work.elapsed = s.work.elapsed + 100 ∧ t.trace = s.trace ++ polled ++ [.sleep 100])) ∧
    (let asked := readStatus s.ops.addr s.ops.tag
        { s with inbox := rest, work := { s.work with pollCount := s.work.pollCount + 1 } }
      let fetched := readData s.ops.addr s.ops.tag asked.2
      ∃ ok reads ok' reads',
        let poll := .tx ((handlerRequest s.ops .readStatus).getD []) ok :: .sleep 50 :: reads
        let fetch := .tx ((handlerRequest s.ops .readData).getD []) ok' :: .sleep 50 :: reads'
        let waits := fun (evs : List Event) => ∃ t, step s = .next t ∧ t.ctl = s.ctl ∧ t.res = s.res ∧
          t.work.attempt = s.work.attempt ∧ t.work.pollCount = s.work.pollCount + 1 ∧
          t.work.elapsed = s.work.elapsed + 100 ∧ t.trace = s.trace ++ evs ++ [.sleep 100]
        isFrameRead 64 reads = true ∧ asked.2.trace = s.trace ++ poll ∧
        asked.1 = (verdict ok (bytesRead reads) s.ops.addr 0x03).bind statusOfPayload ∧
        isFrameRead 64 reads' = true ∧ fetched.2.trace = s.trace ++ poll ++ fetch ∧
        fetched.1 = (verdict ok' (bytesRead reads') s.ops.addr 0x03).bind readingOfPayload ∧
        (∀ e, asked.1 = .error e → waits poll) ∧
        (∀ v, asked.1 = .ok v → v ≠ 2 → v ≠ 3 → waits poll) ∧
        (∀ e, asked.1 = .ok 2 → fetched.1 = .error e → waits (poll ++ fetch)))

/-- The transitions of 44_capture_orchestrator.md R180 are all a turn of the engine can make. A turn of the
engine, one transition of the orchestrator, is the model's granularity (log 9). -/
def Obligations.OrchestratorTransitionsAreTheListed : Prop :=
  ∀ (s t : State) (rest : List Move), s.inbox = .engine :: rest → s.ctl.busy = true →
    s.ctl.midway = true → step s = .next t →
    (s.ctl.orch, t.ctl.orch) ∈
      ([(.idle, .failed), (.idle, .triggered), (.idle, .idle), (.triggered, .polling),
        (.polling, .polling), (.polling, .succeeded), (.polling, .idle), (.polling, .failed),
        (.succeeded, .succeeded), (.failed, .failed)] : List (Orch × Orch)) ∧
    (s.ctl.orch = .succeeded ∨ s.ctl.orch = .failed → t = { s with inbox := rest })

/-- Turns of the engine, one transition each, end where running CAPTURE_PLATE at once ends. A turn of the
engine, one transition of the orchestrator, is the model's granularity (log 9). -/
def Obligations.EngineTurnsReachTheRun : Prop :=
  ∀ (s : State) (n : Nat), s.inbox = [] → s.ctl.busy = true → s.ctl.midway = false →
    s.ctl.curOp = 0x20 →
    (s.ops.maxRetries.toNat + 1) * (s.ops.timeout.toNat / 100 + 4) + 1 ≤ n →
    runSteps n { s with inbox := List.replicate n .engine } = exec .capturePlate s

/-- `backoff` and the two idle timeouts (44_capture_orchestrator.md R190, 00_scope.md R9): no overflow for
a legal `attempt`; the first read's timeout is the longer one. -/
def Obligations.BackoffDoublesAndTimeoutsAreOrdered : Prop :=
  (∀ k : Byte, k.toNat ≤ 25 → (backoff k).toNat = 100 * 2 ^ k.toNat) ∧
  backoff 25 = 0xC8000000 ∧ ReadClass.next.idleTimeout < ReadClass.first.idleTimeout

/-! ## Results, operands, what an operation depends on -/

/-- The commands, by opcode (30_encoding.md R97), leave every result register they do not produce 0
(10_state.md R22, R97): which registers may differ from 0 after each. -/
def Obligations.UnproducedResultsReadZero : Prop :=
  ∀ (i : Instr) (s t : State), i.lane = .cmd → exec i s = .next t →
    (i ≠ .crc16 → t.res.crc = 0) ∧
    (i ≠ .readStatus → t.res.status = 0) ∧
    (i ∉ ([.encodeFrame, .decodeFrame, .readFrame] : List Instr) →
      t.res.len = 0 ∧ t.res.obuf = Memory.empty) ∧
    (i ∉ ([.readData, .capturePlate] : List Instr) →
      t.res.reading = Reading.zero ∧ t.ctl.valid = false) ∧
    (i ≠ .capturePlate → t.res.orch = 0 ∧ t.res.attempt = 0 ∧ t.ctl.orch = s.ctl.orch) ∧
    (t.res.err ≠ 0x04 → t.res.exc = 0) ∧
    (t.res.err ≠ 0 → t.res.crc = 0 ∧ t.res.status = 0 ∧ t.res.len = 0 ∧
      t.res.obuf = Memory.empty ∧ t.res.reading = Reading.zero ∧ t.ctl.valid = false)

/-- Every command returns idle and done with its opcode in cur_op, from every state (10_state.md R31, R32);
STAT then reads 0x02, or 0x06 with a reading. -/
def Obligations.EveryCommandReturnsDone : Prop :=
  ∀ (i : Instr) (s : State), i.lane = .cmd →
    ∃ t, exec i s = .next t ∧ t.ctl.busy = false ∧ t.ctl.done = true ∧ t.ctl.curOp = i.opcode ∧
      t.ctl.midway = false ∧ (t.stat = 0x02 ∨ t.stat = 0x06) ∧ (t.stat = 0x06 → t.res.err = 0)

/-- The engine writes no operand latch, CMD and DBUF and BOARD among them, and no move or host data
(10_state.md R21, R23). -/
def Obligations.EngineNeverWritesOperands : Prop :=
  ∀ (i : Instr) (s t : State), exec i s = .next t →
    t.ops = s.ops ∧ t.inbox = s.inbox ∧ t.hostData = s.hostData

/-- An operation's outcome is a function of its operands and of what the ports answer during it, and of
nothing else (00_scope.md R11, 10_state.md R37): two states that agree on the operands and on the
environment end with the same results, the same flags and the same port events. -/
def Obligations.NothingCarriesOverBetweenCommands : Prop :=
  ∀ (i : Instr) (s s' t t' : State), i.lane = .cmd → s.ops = s'.ops → s.env = s'.env →
    exec i s = .next t → exec i s' = .next t' →
    t.res = t'.res ∧ t.stat = t'.stat ∧ t.env = t'.env ∧
    ∃ evs, t.trace = s.trace ++ evs ∧ t'.trace = s'.trace ++ evs

/-- UPDATE_BOARD does not read A_ADDR (43_device_handlers.md R168): a different A_ADDR changes nothing but
itself. -/
def Obligations.UpdateBoardIgnoresTheAddressOperand : Prop :=
  ∀ (s : State) (b : Byte), ∃ t, exec .updateBoard s = .next t ∧
    exec .updateBoard { s with ops := { s.ops with addr := b } } =
      .next { t with ops := { t.ops with addr := b } }

/-! ## The host's side, reset -/

/-- A write to CMD while idle starts the command (10_state.md R22, R31): CMD and cur_op are the value cut
to 8 bits, busy 1, done and valid 0, every result register 0; nothing else changes. That a wider value is
cut to the register's width is the model's choice (log 10). -/
def Obligations.CommandWriteStarts : Prop :=
  ∀ (s : State) (v : Word) (rest : List Move), s.inbox = .write 0 v :: rest → s.ctl.busy = false →
    step s = .next { s with
      inbox := rest
      ops := { s.ops with cmd := v.setWidth 8 }
      res := Results.zero
      ctl := { s.ctl with
        busy := true, done := false, valid := false, curOp := v.setWidth 8, midway := false } }

/-- While busy a write to any register is ignored, CMD included (20_memory.md R67, 70_reset_and_hazards.md
R249), and the host reads STAT as its flags, busy in bit 0, done in bit 1, valid in bit 2, and R_ORCH as
what it holds (10_state.md R32). That a narrower register reads zero-extended is the model's choice
(log 10). -/
def Obligations.BusyEngineIgnoresWrites : Prop :=
  ∀ (s : State) (rest : List Move), s.ctl.busy = true →
    (∀ reg v, s.inbox = .write reg v :: rest → step s = .next { s with inbox := rest }) ∧
    (s.inbox = .read 1 :: rest →
      step s = .next { s with
        inbox := rest
        hostData := 1 + (if s.ctl.done then 2 else 0) + (if s.ctl.valid then 4 else 0) }) ∧
    (s.inbox = .read 20 :: rest →
      step s = .next { s with inbox := rest, hostData := s.res.orch.setWidth 32 })

/-- An idle engine's operand registers read back what was written, cut to their width, and a write changes
no other register (10_state.md R20, R21): 8 bits, 32 for A_TIMEOUT, 16 for BOARD. That a wider value is cut
to the register's width, and that a narrower register reads zero-extended, is the model's choice (log 10).
-/
def Obligations.OperandReadsBackWhatWasWritten : Prop :=
  ∀ (s : State) (reg : Nat) (v : Word) (rest : List Move), s.ctl.busy = false →
    s.ops.dbuf.wf = true → s.inbox = .write reg v :: .read reg :: rest →
    (2 ≤ reg ∧ reg ≤ 11) ∨ (64 ≤ reg ∧ reg ≤ 76) ∨ (128 ≤ reg ∧ reg ≤ 191) →
    ∃ u t, step s = .next u ∧ step u = .next t ∧
      t.hostData = (if reg = 11 then v else if 64 ≤ reg ∧ reg ≤ 76 then (v.setWidth 16).setWidth 32
        else (v.setWidth 8).setWidth 32) ∧
      (∀ other, other ≠ reg → u.register other = s.register other) ∧
      u.res = s.res ∧ u.ctl = s.ctl ∧ u.work = s.work ∧ u.trace = s.trace

/-- The registers the host may only read, by number, and their values (10_state.md R20, R22, R32): a write
to STAT, a result register or OBUF changes nothing, and an idle engine reads each as what it holds, with
no register changed. That a write is discarded is the model's reading of "read-only to the host", and that
a narrower register reads zero-extended its choice (log 10). -/
def Obligations.ReadOnlyRegistersKeepTheirValues : Prop :=
  (∀ (s : State) (reg : Nat) (v : Word) (rest : List Move), s.inbox = .write reg v :: rest →
    reg = 1 ∨ (12 ≤ reg ∧ reg ≤ 21) ∨ (32 ≤ reg ∧ reg ≤ 39) ∨ (192 ≤ reg ∧ reg ≤ 255) →
    step s = .next { s with inbox := rest }) ∧
  (∀ (s : State) (rest : List Move), s.ctl.busy = false →
    let reads := fun (reg : Nat) (held : Word) => s.inbox = .read reg :: rest →
      step s = .next { s with inbox := rest, hostData := held }
    reads 1 ((if s.ctl.done then 2 else 0) + (if s.ctl.valid then 4 else 0)) ∧
    reads 12 (s.res.err.setWidth 32) ∧ reads 13 (s.res.exc.setWidth 32) ∧
    reads 14 (s.res.crc.setWidth 32) ∧ reads 15 (s.res.len.setWidth 32) ∧
    reads 16 (s.res.status.setWidth 32) ∧ reads 17 (s.res.reading.status.setWidth 32) ∧
    reads 18 (s.res.reading.confidence.setWidth 32) ∧
    reads 19 (s.res.reading.errorCode.setWidth 32) ∧ reads 20 (s.res.orch.setWidth 32) ∧
    reads 21 (s.res.attempt.setWidth 32) ∧
    (∀ (k : Nat) (h : k < 8), reads (32 + k) (s.res.reading.plate[k].setWidth 32)) ∧
    (∀ k, k < 64 → reads (192 + k) ((s.res.obuf.read k).setWidth 32)))

/-- An idle engine with no move waiting keeps all its registers (60_exceptions.md R232). -/
def Obligations.IdleEngineKeepsEverything : Prop :=
  ∀ s : State, s.inbox = [] → s.ctl.busy = false → step s = .next s

/-- Reset leaves the engine idle, its flags and result registers 0 and its trace empty, from every state
(70_reset_and_hazards.md R240), and so does the state after reset itself. -/
def Obligations.ResetLeavesTheEngineIdle : Prop :=
  (State.reset.ctl.busy = false ∧ State.reset.ctl.done = false ∧ State.reset.ctl.valid = false ∧
    State.reset.ctl.orch = .idle ∧ State.reset.res = Results.zero ∧ State.reset.trace = []) ∧
  ∀ (s : State) (rest : List Move), s.inbox = .reset :: rest →
    ∃ t, step s = .next t ∧ t.ctl.busy = false ∧ t.ctl.done = false ∧ t.ctl.valid = false ∧
      t.ctl.orch = .idle ∧ t.ctl.midway = false ∧ t.res = Results.zero ∧ t.trace = []

/-- Reset during a handler command (70_reset_and_hazards.md R242): after the write, after the guard delay
or after the first read of its exchange the command is abandoned, no result is written, R_ERR reads 0; what
the transport took and gave is not undone. Which port events a reset can fall between, and what reset
keeps, is the model's choice (log 12). -/
def Obligations.ResetAbandonsTheCommand : Prop :=
  ∀ (s : State) (i : Instr) (k : Nat) (rest : List Move) (frame : List Byte),
    s.inbox = .resetAfter k :: rest → s.ctl.busy = true → s.ctl.midway = false →
    decode .cmd [s.ctl.curOp] = .ok i → handlerRequest s.ops i = some frame → k ≤ 3 →
    ∃ t, step s = .next t ∧ t.ctl = Control.rest ∧ t.res = Results.zero ∧ t.trace = [] ∧
      t.env = (if k = 0 then s.env else if k ≤ 2 then s.env.takeTx.2
        else (s.env.takeTx.2.takeRx 64).2)

/-! ## Invariants that every step keeps -/

/-- Strict turn-taking (20_memory.md R64, R65): every step from a trace that keeps it leaves one that keeps
it. -/
def Obligations.EveryStepKeepsTurnTaking : Prop :=
  ∀ s t : State, turnTaking s.trace = true → step s = .next t → turnTaking t.trace = true

/-- The four buffers stay in canonical form and within their 64 bytes (20_memory.md R70). -/
def Obligations.EveryStepKeepsTheBuffers : Prop :=
  ∀ s t : State, s.buffersOk = true → step s = .next t → t.buffersOk = true

/-- The flags, the sequencer and the reading stay in agreement (10_state.md R27, R31, R32). -/
def Obligations.EveryStepKeepsTheSequencer : Prop :=
  ∀ s t : State, s.sequencerOk = true → step s = .next t → t.sequencerOk = true

/-- The result registers hold only what the rules can write (60_exceptions.md R210, R214, 30_encoding.md
R96), in a state whose sequencer and flags agree. -/
def Obligations.EveryStepKeepsTheResultRanges : Prop :=
  ∀ s t : State, s.sequencerOk = true → s.resultsOk = true → step s = .next t → t.resultsOk = true

/-- The state after reset meets the four invariants. -/
def Obligations.ResetMeetsTheInvariants : Prop :=
  turnTaking State.reset.trace = true ∧ State.reset.buffersOk = true ∧
  State.reset.sequencerOk = true ∧ State.reset.resultsOk = true
end

