-- ==== Sys2Proof/Laws/Codec.lean ====
section
/-! SUPPORT. The laws of byte order, of the checksum field and of the frame layouts, said once. -/

namespace Sys2Proof.Machine

/-! ### Byte order -/

@[simp] theorem u16be_hi8_lo8 (v : Half) : u16be (hi8 v) (lo8 v) = v := by
  apply BitVec.eq_of_getLsbD_eq
  intro i hi
  simp only [u16be, hi8, lo8, BitVec.getLsbD_append, BitVec.getLsbD_setWidth,
    BitVec.getLsbD_ushiftRight]
  by_cases h : i < 8
  · simp [h]
  · have h1 : i - 8 < 8 := by omega
    have h2 : 8 + (i - 8) = i := by omega
    simp [h, h1, h2]

@[simp] theorem u16le_lo8_hi8 (v : Half) : u16le (lo8 v) (hi8 v) = v := u16be_hi8_lo8 v

@[simp] theorem hi8_u16be (a b : Byte) : hi8 (u16be a b) = a := by
  apply BitVec.eq_of_getLsbD_eq
  intro i hi
  have h := BitVec.getLsbD_append (x := a) (y := b) (i := 8 + i)
  simp_all [u16be, hi8]

@[simp] theorem lo8_u16be (a b : Byte) : lo8 (u16be a b) = b := by
  apply BitVec.eq_of_getLsbD_eq
  intro i hi
  have h := BitVec.getLsbD_append (x := a) (y := b) (i := i)
  simp_all [u16be, lo8]

@[simp] theorem lo8_u16le (a b : Byte) : lo8 (u16le a b) = a := lo8_u16be b a
@[simp] theorem hi8_u16le (a b : Byte) : hi8 (u16le a b) = b := hi8_u16be b a

/-- A 16-bit value is fixed by its two bytes. -/
theorem half_eq_iff (v : Half) (a b : Byte) : u16le a b = v ↔ a = lo8 v ∧ b = hi8 v := by
  constructor
  · rintro rfl; simp
  · rintro ⟨rfl, rfl⟩; simp

@[simp] theorem be16_length (v : Half) : (be16 v).length = 2 := rfl
@[simp] theorem le16_length (v : Half) : (le16 v).length = 2 := rfl

@[simp] theorem flatMap_be16_length : ∀ vs : List Half, (vs.flatMap be16).length = 2 * vs.length
  | [] => rfl
  | v :: vs => by simp only [List.flatMap_cons, List.length_append, be16_length, List.length_cons,
      flatMap_be16_length vs]; omega

@[simp] theorem byteAt_cons_zero (a : Byte) (l : List Byte) : byteAt (a :: l) 0 = a := rfl
@[simp] theorem byteAt_cons_succ (a : Byte) (l : List Byte) (i : Nat) :
    byteAt (a :: l) (i + 1) = byteAt l i := rfl
@[simp] theorem byteAt_nil (i : Nat) : byteAt [] i = 0 := rfl

theorem byteAt_append_left {b : List Byte} {i : Nat} (h : i < b.length) (c : List Byte) :
    byteAt (b ++ c) i = byteAt b i := by
  simp [byteAt, List.getElem?_append_left h]

theorem byteAt_append_right (b c : List Byte) (i : Nat) :
    byteAt (b ++ c) (b.length + i) = byteAt c i := by
  simp [byteAt, List.getElem?_append_right]

/-! ### The checksum field -/

@[simp] theorem withChecksum_length (b : List Byte) : (withChecksum b).length = b.length + 2 := by
  simp [withChecksum]

@[simp] theorem frameBody_withChecksum (b : List Byte) : frameBody (withChecksum b) = b := by
  simp [frameBody, withChecksum]

@[simp] theorem frameChecksum_withChecksum (b : List Byte) :
    frameChecksum (withChecksum b) = crc16 b := by
  have h1 : byteAt (b ++ le16 (crc16 b)) b.length = lo8 (crc16 b) :=
    byteAt_append_right b _ 0
  have h2 : byteAt (b ++ le16 (crc16 b)) (b.length + 1) = hi8 (crc16 b) :=
    byteAt_append_right b _ 1
  simp [frameChecksum, withChecksum, h1, h2]

@[simp] theorem framePayload_withChecksum (a f : Byte) (p : List Byte) :
    framePayload (withChecksum (a :: f :: p)) = p := by
  simp [framePayload]

@[simp] theorem byteAt_withChecksum_zero (a f : Byte) (p : List Byte) :
    byteAt (withChecksum (a :: f :: p)) 0 = a := rfl
@[simp] theorem byteAt_withChecksum_one (a f : Byte) (p : List Byte) :
    byteAt (withChecksum (a :: f :: p)) 1 = f := rfl
@[simp] theorem byteAt_withChecksum_two (a f c : Byte) (p : List Byte) :
    byteAt (withChecksum (a :: f :: c :: p)) 2 = c := rfl

/-- Two bytes from the end on, a list is its last two bytes. -/
theorem drop_two_of_end {b : List Byte} (h : 2 ≤ b.length) :
    b.drop (b.length - 2) = [byteAt b (b.length - 2), byteAt b (b.length - 1)] := by
  apply List.ext_getElem
  · simp; omega
  · intro i h1 h2
    simp only [List.length_cons, List.length_nil] at h2
    have : i = 0 ∨ i = 1 := by omega
    rcases this with rfl | rfl
    · have hlt : b.length - 2 < b.length := by omega
      simp [byteAt, hlt]
    · have hlt : b.length - 1 < b.length := by omega
      have hs : b.length - 2 + 1 = b.length - 1 := by omega
      simp [byteAt, hlt, hs]

/-- Bytes with a good checksum are their body with its checksum field. -/
theorem withChecksum_frameBody {b : List Byte} (h : 2 ≤ b.length)
    (hc : frameChecksum b = crc16 (frameBody b)) : withChecksum (frameBody b) = b := by
  obtain ⟨h1, h2⟩ := (half_eq_iff _ _ _).mp hc
  rw [withChecksum, le16, ← h1, ← h2, ← drop_two_of_end h, frameBody, List.take_append_drop]

/-- A list of at least two bytes is its first two and the rest. -/
theorem eq_cons_cons {b : List Byte} (h : 2 ≤ b.length) :
    b = byteAt b 0 :: byteAt b 1 :: b.drop 2 := by
  match b, h with
  | _ :: _ :: _, _ => rfl

theorem frameBody_eq {b : List Byte} (h : 4 ≤ b.length) :
    frameBody b = byteAt b 0 :: byteAt b 1 :: framePayload b := by
  have hl : 2 ≤ (frameBody b).length := by simp [frameBody]; omega
  rw [framePayload, eq_cons_cons hl]
  match b, h with
  | x :: y :: z :: w :: r, _ => simp [frameBody, byteAt]

/-- Bytes with a good checksum are the frame of their address, function and payload. -/
theorem eq_withChecksum {b : List Byte} (h : 4 ≤ b.length)
    (hc : frameChecksum b = crc16 (frameBody b)) :
    b = withChecksum (byteAt b 0 :: byteAt b 1 :: framePayload b) := by
  rw [← frameBody_eq h, withChecksum_frameBody (by omega) hc]

theorem framePayload_length (b : List Byte) : (framePayload b).length = b.length - 4 := by
  simp [framePayload, frameBody]; omega

/-! ### Frames -/

@[simp] theorem requestFrame_length (a f : Byte) (p : List Byte) (t : Tag) :
    (requestFrame a f p t).length = p.length + 8 := by
  simp [requestFrame, requestBody, tagBytes]

@[simp] theorem responseFrame_length (a f : Byte) (p : List Byte) :
    (responseFrame a f p).length = p.length + 4 := by
  simp [responseFrame]

@[simp] theorem rhrPayload_length (start qty : Half) : (rhrPayload start qty).length = 4 := rfl

@[simp] theorem wmrPayload_length (start : Half) (values : List Half) :
    (wmrPayload start values).length = 5 + 2 * values.length := by
  simp [wmrPayload]; omega

@[simp] theorem rhrResponsePayload_length (data : List Byte) :
    (rhrResponsePayload data).length = data.length + 1 := rfl

@[simp] theorem halves_flatMap_be16 : ∀ vs : List Half, halves (vs.flatMap be16) = vs
  | [] => rfl
  | v :: vs => by simp [be16, halves, halves_flatMap_be16 vs]

/-- An even number of bytes is rebuilt from its halves. -/
theorem flatMap_be16_halves : ∀ (n : Nat) (b : List Byte), b.length = 2 * n →
    (halves b).flatMap be16 = b ∧ (halves b).length = n
  | 0, [], _ => ⟨rfl, rfl⟩
  | n + 1, a :: b :: rest, h => by
    have ih := flatMap_be16_halves n rest (by simp at h; omega)
    simp [halves, be16, ih.1, ih.2]

@[simp] theorem tagOf_tagBytes (t : Tag) : tagOf (tagBytes t) = t := rfl

theorem tagBytes_tagOf {b : List Byte} (h : b.length = 4) : tagBytes (tagOf b) = b := by
  match b, h with
  | [_, _, _, _], _ => rfl

/-- The verdict on a frame with a good checksum and at least one payload byte. -/
theorem decodeAndVerify_withChecksum {a f ea ef : Byte} {p : List Byte} (hp : 1 ≤ p.length) :
    decodeAndVerify (withChecksum (a :: f :: p)) ea ef =
      if a ≠ ea then .error .addressMismatch
      else if f = ef then .ok p
      else if f = ef ||| 0x80 then .error (.deviceException (byteAt p 0))
      else .error .functionMismatch := by
  have h5 : ¬ (withChecksum (a :: f :: p)).length < Config.minFrame := by
    simp only [withChecksum_length, List.length_cons, Config.minFrame]; omega
  unfold decodeAndVerify
  rw [if_neg h5]
  simp only [frameChecksum_withChecksum, frameBody_withChecksum, byteAt_withChecksum_zero,
    byteAt_withChecksum_one, framePayload_withChecksum, ne_eq, not_true_eq_false, if_false,
    Config.excBit]
  match p, hp with
  | _ :: _, _ => rfl

/-- A frame of legal length with a good checksum passes the tests that every frame passes. -/
theorem checkFrame_withChecksum {least : Nat} {b : List Byte} (h : least ≤ b.length + 2)
    (h64 : b.length + 2 ≤ 64) : checkFrame least (withChecksum b) = none := by
  have h1 : ¬ b.length + 2 < least := by omega
  have h2 : ¬ Config.maxFrame < b.length + 2 := by simp only [Config.maxFrame]; omega
  simp [checkFrame, h1, h2]

/-- What passing those tests says. -/
theorem checkFrame_none {least : Nat} {b : List Byte} (h : checkFrame least b = none) :
    least ≤ b.length ∧ b.length ≤ 64 ∧ frameChecksum b = crc16 (frameBody b) := by
  unfold checkFrame at h
  split at h
  · cases h
  split at h
  · cases h
  split at h
  · cases h
  rename_i h1 h2 h3
  simp only [Config.maxFrame] at h2
  exact ⟨by omega, by omega, by simpa using h3⟩

end Sys2Proof.Machine
end

