-- ==== Sys2Proof/Laws/State.lean ====
section
/-! SUPPORT. One lemma per field of State and named update, each true by rfl, so that no proof unfolds
a record update; the same for the port operations and for reset. -/

namespace Sys2Proof.Machine

/-! ### setCrc -/

@[simp] theorem setCrc_ops (c : Half) (s : State) : (s.setCrc c).ops = s.ops := rfl
@[simp] theorem setCrc_res (c : Half) (s : State) : (s.setCrc c).res = s.res := rfl
@[simp] theorem setCrc_ctl (c : Half) (s : State) : (s.setCrc c).ctl = s.ctl := rfl
@[simp] theorem setCrc_work (c : Half) (s : State) :
    (s.setCrc c).work = { s.work with crc := c } := rfl
@[simp] theorem setCrc_trace (c : Half) (s : State) : (s.setCrc c).trace = s.trace := rfl
@[simp] theorem setCrc_env (c : Half) (s : State) : (s.setCrc c).env = s.env := rfl
@[simp] theorem setCrc_inbox (c : Half) (s : State) : (s.setCrc c).inbox = s.inbox := rfl
@[simp] theorem setCrc_hostData (c : Half) (s : State) : (s.setCrc c).hostData = s.hostData := rfl

/-! ### latchTx -/

@[simp] theorem latchTx_ops (frame : List Byte) (s : State) : (s.latchTx frame).ops = s.ops := rfl
@[simp] theorem latchTx_res (frame : List Byte) (s : State) : (s.latchTx frame).res = s.res := rfl
@[simp] theorem latchTx_ctl (frame : List Byte) (s : State) : (s.latchTx frame).ctl = s.ctl := rfl
@[simp] theorem latchTx_work (frame : List Byte) (s : State) :
    (s.latchTx frame).work = { s.work with
      txbuf := s.work.txbuf.writeBytes 0 frame, txlen := BitVec.ofNat 7 frame.length } := rfl
@[simp] theorem latchTx_trace (frame : List Byte) (s : State) :
    (s.latchTx frame).trace = s.trace := rfl
@[simp] theorem latchTx_env (frame : List Byte) (s : State) : (s.latchTx frame).env = s.env := rfl
@[simp] theorem latchTx_inbox (frame : List Byte) (s : State) :
    (s.latchTx frame).inbox = s.inbox := rfl
@[simp] theorem latchTx_hostData (frame : List Byte) (s : State) :
    (s.latchTx frame).hostData = s.hostData := rfl

/-! ### latchRx -/

@[simp] theorem latchRx_ops (b : List Byte) (e : Nat) (s : State) :
    (s.latchRx b e).ops = s.ops := rfl
@[simp] theorem latchRx_res (b : List Byte) (e : Nat) (s : State) :
    (s.latchRx b e).res = s.res := rfl
@[simp] theorem latchRx_ctl (b : List Byte) (e : Nat) (s : State) :
    (s.latchRx b e).ctl = s.ctl := rfl
@[simp] theorem latchRx_work (b : List Byte) (e : Nat) (s : State) :
    (s.latchRx b e).work = { s.work with
      rxbuf := s.work.rxbuf.writeBytes 0 b, rxlen := BitVec.ofNat 7 b.length,
      emptyPolls := BitVec.ofNat 2 e } := rfl
@[simp] theorem latchRx_trace (b : List Byte) (e : Nat) (s : State) :
    (s.latchRx b e).trace = s.trace := rfl
@[simp] theorem latchRx_env (b : List Byte) (e : Nat) (s : State) :
    (s.latchRx b e).env = s.env := rfl
@[simp] theorem latchRx_inbox (b : List Byte) (e : Nat) (s : State) :
    (s.latchRx b e).inbox = s.inbox := rfl
@[simp] theorem latchRx_hostData (b : List Byte) (e : Nat) (s : State) :
    (s.latchRx b e).hostData = s.hostData := rfl

/-! ### latchRequest -/

@[simp] theorem latchRequest_ops (a f : Byte) (t : Tag) (s : State) :
    (s.latchRequest a f t).ops = s.ops := rfl
@[simp] theorem latchRequest_res (a f : Byte) (t : Tag) (s : State) :
    (s.latchRequest a f t).res = s.res := rfl
@[simp] theorem latchRequest_ctl (a f : Byte) (t : Tag) (s : State) :
    (s.latchRequest a f t).ctl = s.ctl := rfl
@[simp] theorem latchRequest_work (a f : Byte) (t : Tag) (s : State) :
    (s.latchRequest a f t).work = { s.work with hAddr := a, hFunc := f, hTag := t } := rfl
@[simp] theorem latchRequest_trace (a f : Byte) (t : Tag) (s : State) :
    (s.latchRequest a f t).trace = s.trace := rfl
@[simp] theorem latchRequest_env (a f : Byte) (t : Tag) (s : State) :
    (s.latchRequest a f t).env = s.env := rfl
@[simp] theorem latchRequest_inbox (a f : Byte) (t : Tag) (s : State) :
    (s.latchRequest a f t).inbox = s.inbox := rfl
@[simp] theorem latchRequest_hostData (a f : Byte) (t : Tag) (s : State) :
    (s.latchRequest a f t).hostData = s.hostData := rfl

/-! ### setWrFail -/

@[simp] theorem setWrFail_ops (b : Bool) (s : State) : (s.setWrFail b).ops = s.ops := rfl
@[simp] theorem setWrFail_res (b : Bool) (s : State) : (s.setWrFail b).res = s.res := rfl
@[simp] theorem setWrFail_ctl (b : Bool) (s : State) : (s.setWrFail b).ctl = s.ctl := rfl
@[simp] theorem setWrFail_work (b : Bool) (s : State) :
    (s.setWrFail b).work = { s.work with wrFail := b } := rfl
@[simp] theorem setWrFail_trace (b : Bool) (s : State) : (s.setWrFail b).trace = s.trace := rfl
@[simp] theorem setWrFail_env (b : Bool) (s : State) : (s.setWrFail b).env = s.env := rfl
@[simp] theorem setWrFail_inbox (b : Bool) (s : State) : (s.setWrFail b).inbox = s.inbox := rfl
@[simp] theorem setWrFail_hostData (b : Bool) (s : State) :
    (s.setWrFail b).hostData = s.hostData := rfl

/-! ### bumpAttempt -/

@[simp] theorem bumpAttempt_ops (s : State) : (s.bumpAttempt).ops = s.ops := rfl
@[simp] theorem bumpAttempt_res (s : State) : (s.bumpAttempt).res = s.res := rfl
@[simp] theorem bumpAttempt_ctl (s : State) : (s.bumpAttempt).ctl = s.ctl := rfl
@[simp] theorem bumpAttempt_work (s : State) :
    (s.bumpAttempt).work = { s.work with attempt := s.work.attempt + 1 } := rfl
@[simp] theorem bumpAttempt_trace (s : State) : (s.bumpAttempt).trace = s.trace := rfl
@[simp] theorem bumpAttempt_env (s : State) : (s.bumpAttempt).env = s.env := rfl
@[simp] theorem bumpAttempt_inbox (s : State) : (s.bumpAttempt).inbox = s.inbox := rfl
@[simp] theorem bumpAttempt_hostData (s : State) : (s.bumpAttempt).hostData = s.hostData := rfl

/-! ### bumpPoll -/

@[simp] theorem bumpPoll_ops (s : State) : (s.bumpPoll).ops = s.ops := rfl
@[simp] theorem bumpPoll_res (s : State) : (s.bumpPoll).res = s.res := rfl
@[simp] theorem bumpPoll_ctl (s : State) : (s.bumpPoll).ctl = s.ctl := rfl
@[simp] theorem bumpPoll_work (s : State) :
    (s.bumpPoll).work = { s.work with pollCount := s.work.pollCount + 1 } := rfl
@[simp] theorem bumpPoll_trace (s : State) : (s.bumpPoll).trace = s.trace := rfl
@[simp] theorem bumpPoll_env (s : State) : (s.bumpPoll).env = s.env := rfl
@[simp] theorem bumpPoll_inbox (s : State) : (s.bumpPoll).inbox = s.inbox := rfl
@[simp] theorem bumpPoll_hostData (s : State) : (s.bumpPoll).hostData = s.hostData := rfl

/-! ### addElapsed -/

@[simp] theorem addElapsed_ops (s : State) : (s.addElapsed).ops = s.ops := rfl
@[simp] theorem addElapsed_res (s : State) : (s.addElapsed).res = s.res := rfl
@[simp] theorem addElapsed_ctl (s : State) : (s.addElapsed).ctl = s.ctl := rfl
@[simp] theorem addElapsed_work (s : State) :
    (s.addElapsed).work = { s.work with elapsed := s.work.elapsed + 100 } := rfl
@[simp] theorem addElapsed_trace (s : State) : (s.addElapsed).trace = s.trace := rfl
@[simp] theorem addElapsed_env (s : State) : (s.addElapsed).env = s.env := rfl
@[simp] theorem addElapsed_inbox (s : State) : (s.addElapsed).inbox = s.inbox := rfl
@[simp] theorem addElapsed_hostData (s : State) : (s.addElapsed).hostData = s.hostData := rfl

/-! ### clearPolls -/

@[simp] theorem clearPolls_ops (s : State) : (s.clearPolls).ops = s.ops := rfl
@[simp] theorem clearPolls_res (s : State) : (s.clearPolls).res = s.res := rfl
@[simp] theorem clearPolls_ctl (s : State) : (s.clearPolls).ctl = s.ctl := rfl
@[simp] theorem clearPolls_work (s : State) :
    (s.clearPolls).work = { s.work with pollCount := 0, elapsed := 0 } := rfl
@[simp] theorem clearPolls_trace (s : State) : (s.clearPolls).trace = s.trace := rfl
@[simp] theorem clearPolls_env (s : State) : (s.clearPolls).env = s.env := rfl
@[simp] theorem clearPolls_inbox (s : State) : (s.clearPolls).inbox = s.inbox := rfl
@[simp] theorem clearPolls_hostData (s : State) : (s.clearPolls).hostData = s.hostData := rfl

/-! ### openSession -/

@[simp] theorem openSession_ops (s : State) : (s.openSession).ops = s.ops := rfl
@[simp] theorem openSession_res (s : State) : (s.openSession).res = s.res := rfl
@[simp] theorem openSession_ctl (s : State) : (s.openSession).ctl = s.ctl := rfl
@[simp] theorem openSession_work (s : State) :
    (s.openSession).work = { s.work with attempt := 0, pollBudget := s.ops.timeout / 100 } := rfl
@[simp] theorem openSession_trace (s : State) : (s.openSession).trace = s.trace := rfl
@[simp] theorem openSession_env (s : State) : (s.openSession).env = s.env := rfl
@[simp] theorem openSession_inbox (s : State) : (s.openSession).inbox = s.inbox := rfl
@[simp] theorem openSession_hostData (s : State) : (s.openSession).hostData = s.hostData := rfl

/-! ### reportOk -/

@[simp] theorem reportOk_ops (s : State) : (s.reportOk).ops = s.ops := rfl
@[simp] theorem reportOk_res (s : State) : (s.reportOk).res = { s.res with err := 0 } := rfl
@[simp] theorem reportOk_ctl (s : State) : (s.reportOk).ctl = s.ctl := rfl
@[simp] theorem reportOk_work (s : State) : (s.reportOk).work = s.work := rfl
@[simp] theorem reportOk_trace (s : State) : (s.reportOk).trace = s.trace := rfl
@[simp] theorem reportOk_env (s : State) : (s.reportOk).env = s.env := rfl
@[simp] theorem reportOk_inbox (s : State) : (s.reportOk).inbox = s.inbox := rfl
@[simp] theorem reportOk_hostData (s : State) : (s.reportOk).hostData = s.hostData := rfl

/-! ### reportError -/

@[simp] theorem reportError_ops (e : Err) (s : State) : (s.reportError e).ops = s.ops := rfl
@[simp] theorem reportError_res (e : Err) (s : State) :
    (s.reportError e).res = { s.res with err := e.code, exc := e.exc } := rfl
@[simp] theorem reportError_ctl (e : Err) (s : State) : (s.reportError e).ctl = s.ctl := rfl
@[simp] theorem reportError_work (e : Err) (s : State) : (s.reportError e).work = s.work := rfl
@[simp] theorem reportError_trace (e : Err) (s : State) : (s.reportError e).trace = s.trace := rfl
@[simp] theorem reportError_env (e : Err) (s : State) : (s.reportError e).env = s.env := rfl
@[simp] theorem reportError_inbox (e : Err) (s : State) : (s.reportError e).inbox = s.inbox := rfl
@[simp] theorem reportError_hostData (e : Err) (s : State) :
    (s.reportError e).hostData = s.hostData := rfl

/-! ### setResultCrc -/

@[simp] theorem setResultCrc_ops (c : Half) (s : State) : (s.setResultCrc c).ops = s.ops := rfl
@[simp] theorem setResultCrc_res (c : Half) (s : State) :
    (s.setResultCrc c).res = { s.res with crc := c } := rfl
@[simp] theorem setResultCrc_ctl (c : Half) (s : State) : (s.setResultCrc c).ctl = s.ctl := rfl
@[simp] theorem setResultCrc_work (c : Half) (s : State) : (s.setResultCrc c).work = s.work := rfl
@[simp] theorem setResultCrc_trace (c : Half) (s : State) :
    (s.setResultCrc c).trace = s.trace := rfl
@[simp] theorem setResultCrc_env (c : Half) (s : State) : (s.setResultCrc c).env = s.env := rfl
@[simp] theorem setResultCrc_inbox (c : Half) (s : State) :
    (s.setResultCrc c).inbox = s.inbox := rfl
@[simp] theorem setResultCrc_hostData (c : Half) (s : State) :
    (s.setResultCrc c).hostData = s.hostData := rfl

/-! ### setOutput -/

@[simp] theorem setOutput_ops (b : List Byte) (s : State) : (s.setOutput b).ops = s.ops := rfl
@[simp] theorem setOutput_res (b : List Byte) (s : State) :
    (s.setOutput b).res = { s.res with
      obuf := s.res.obuf.writeBytes 0 b, len := BitVec.ofNat 8 b.length } := rfl
@[simp] theorem setOutput_ctl (b : List Byte) (s : State) : (s.setOutput b).ctl = s.ctl := rfl
@[simp] theorem setOutput_work (b : List Byte) (s : State) : (s.setOutput b).work = s.work := rfl
@[simp] theorem setOutput_trace (b : List Byte) (s : State) : (s.setOutput b).trace = s.trace := rfl
@[simp] theorem setOutput_env (b : List Byte) (s : State) : (s.setOutput b).env = s.env := rfl
@[simp] theorem setOutput_inbox (b : List Byte) (s : State) : (s.setOutput b).inbox = s.inbox := rfl
@[simp] theorem setOutput_hostData (b : List Byte) (s : State) :
    (s.setOutput b).hostData = s.hostData := rfl

/-! ### setStatus -/

@[simp] theorem setStatus_ops (v : Byte) (s : State) : (s.setStatus v).ops = s.ops := rfl
@[simp] theorem setStatus_res (v : Byte) (s : State) :
    (s.setStatus v).res = { s.res with status := v } := rfl
@[simp] theorem setStatus_ctl (v : Byte) (s : State) : (s.setStatus v).ctl = s.ctl := rfl
@[simp] theorem setStatus_work (v : Byte) (s : State) : (s.setStatus v).work = s.work := rfl
@[simp] theorem setStatus_trace (v : Byte) (s : State) : (s.setStatus v).trace = s.trace := rfl
@[simp] theorem setStatus_env (v : Byte) (s : State) : (s.setStatus v).env = s.env := rfl
@[simp] theorem setStatus_inbox (v : Byte) (s : State) : (s.setStatus v).inbox = s.inbox := rfl
@[simp] theorem setStatus_hostData (v : Byte) (s : State) :
    (s.setStatus v).hostData = s.hostData := rfl

/-! ### setReading -/

@[simp] theorem setReading_ops (r : Reading) (s : State) : (s.setReading r).ops = s.ops := rfl
@[simp] theorem setReading_res (r : Reading) (s : State) :
    (s.setReading r).res = { s.res with reading := r } := rfl
@[simp] theorem setReading_ctl (r : Reading) (s : State) :
    (s.setReading r).ctl = { s.ctl with valid := true } := rfl
@[simp] theorem setReading_work (r : Reading) (s : State) : (s.setReading r).work = s.work := rfl
@[simp] theorem setReading_trace (r : Reading) (s : State) : (s.setReading r).trace = s.trace := rfl
@[simp] theorem setReading_env (r : Reading) (s : State) : (s.setReading r).env = s.env := rfl
@[simp] theorem setReading_inbox (r : Reading) (s : State) : (s.setReading r).inbox = s.inbox := rfl
@[simp] theorem setReading_hostData (r : Reading) (s : State) :
    (s.setReading r).hostData = s.hostData := rfl

/-! ### showAttempt -/

@[simp] theorem showAttempt_ops (s : State) : (s.showAttempt).ops = s.ops := rfl
@[simp] theorem showAttempt_res (s : State) :
    (s.showAttempt).res = { s.res with attempt := s.work.attempt } := rfl
@[simp] theorem showAttempt_ctl (s : State) : (s.showAttempt).ctl = s.ctl := rfl
@[simp] theorem showAttempt_work (s : State) : (s.showAttempt).work = s.work := rfl
@[simp] theorem showAttempt_trace (s : State) : (s.showAttempt).trace = s.trace := rfl
@[simp] theorem showAttempt_env (s : State) : (s.showAttempt).env = s.env := rfl
@[simp] theorem showAttempt_inbox (s : State) : (s.showAttempt).inbox = s.inbox := rfl
@[simp] theorem showAttempt_hostData (s : State) : (s.showAttempt).hostData = s.hostData := rfl

/-! ### setOrch -/

@[simp] theorem setOrch_ops (o : Orch) (s : State) : (s.setOrch o).ops = s.ops := rfl
@[simp] theorem setOrch_res (o : Orch) (s : State) :
    (s.setOrch o).res = { s.res with orch := o.code } := rfl
@[simp] theorem setOrch_ctl (o : Orch) (s : State) :
    (s.setOrch o).ctl = { s.ctl with orch := o } := rfl
@[simp] theorem setOrch_work (o : Orch) (s : State) : (s.setOrch o).work = s.work := rfl
@[simp] theorem setOrch_trace (o : Orch) (s : State) : (s.setOrch o).trace = s.trace := rfl
@[simp] theorem setOrch_env (o : Orch) (s : State) : (s.setOrch o).env = s.env := rfl
@[simp] theorem setOrch_inbox (o : Orch) (s : State) : (s.setOrch o).inbox = s.inbox := rfl
@[simp] theorem setOrch_hostData (o : Orch) (s : State) : (s.setOrch o).hostData = s.hostData := rfl

/-! ### enterLoop -/

@[simp] theorem enterLoop_ops (s : State) : (s.enterLoop).ops = s.ops := rfl
@[simp] theorem enterLoop_res (s : State) : (s.enterLoop).res = s.res := rfl
@[simp] theorem enterLoop_ctl (s : State) : (s.enterLoop).ctl = { s.ctl with midway := true } := rfl
@[simp] theorem enterLoop_work (s : State) : (s.enterLoop).work = s.work := rfl
@[simp] theorem enterLoop_trace (s : State) : (s.enterLoop).trace = s.trace := rfl
@[simp] theorem enterLoop_env (s : State) : (s.enterLoop).env = s.env := rfl
@[simp] theorem enterLoop_inbox (s : State) : (s.enterLoop).inbox = s.inbox := rfl
@[simp] theorem enterLoop_hostData (s : State) : (s.enterLoop).hostData = s.hostData := rfl

/-! ### log -/

@[simp] theorem log_ops (ev : Event) (s : State) : (s.log ev).ops = s.ops := rfl
@[simp] theorem log_res (ev : Event) (s : State) : (s.log ev).res = s.res := rfl
@[simp] theorem log_ctl (ev : Event) (s : State) : (s.log ev).ctl = s.ctl := rfl
@[simp] theorem log_work (ev : Event) (s : State) : (s.log ev).work = s.work := rfl
@[simp] theorem log_trace (ev : Event) (s : State) : (s.log ev).trace = s.trace ++ [ev] := rfl
@[simp] theorem log_env (ev : Event) (s : State) : (s.log ev).env = s.env := rfl
@[simp] theorem log_inbox (ev : Event) (s : State) : (s.log ev).inbox = s.inbox := rfl
@[simp] theorem log_hostData (ev : Event) (s : State) : (s.log ev).hostData = s.hostData := rfl

/-! ### deliver -/

@[simp] theorem deliver_ops (b : List Byte) (s : State) : (s.deliver b).ops = s.ops := rfl
@[simp] theorem deliver_res (b : List Byte) (s : State) : (s.deliver b).res = s.res := rfl
@[simp] theorem deliver_ctl (b : List Byte) (s : State) : (s.deliver b).ctl = s.ctl := rfl
@[simp] theorem deliver_work (b : List Byte) (s : State) : (s.deliver b).work = s.work := rfl
@[simp] theorem deliver_trace (b : List Byte) (s : State) : (s.deliver b).trace = s.trace := rfl
@[simp] theorem deliver_env (b : List Byte) (s : State) :
    (s.deliver b).env = { s.env with rx := s.env.rx ++ [b] } := rfl
@[simp] theorem deliver_inbox (b : List Byte) (s : State) : (s.deliver b).inbox = s.inbox := rfl
@[simp] theorem deliver_hostData (b : List Byte) (s : State) :
    (s.deliver b).hostData = s.hostData := rfl

/-! ### begin -/

@[simp] theorem begin_ops (op : Byte) (s : State) : (s.begin op).ops = s.ops := rfl
@[simp] theorem begin_res (op : Byte) (s : State) : (s.begin op).res = Results.zero := rfl
@[simp] theorem begin_ctl (op : Byte) (s : State) :
    (s.begin op).ctl = { s.ctl with
      busy := true, done := false, valid := false, curOp := op, midway := false } := rfl
@[simp] theorem begin_work (op : Byte) (s : State) : (s.begin op).work = s.work := rfl
@[simp] theorem begin_trace (op : Byte) (s : State) : (s.begin op).trace = s.trace := rfl
@[simp] theorem begin_env (op : Byte) (s : State) : (s.begin op).env = s.env := rfl
@[simp] theorem begin_inbox (op : Byte) (s : State) : (s.begin op).inbox = s.inbox := rfl
@[simp] theorem begin_hostData (op : Byte) (s : State) : (s.begin op).hostData = s.hostData := rfl

/-! ### finish -/

@[simp] theorem finish_ops (s : State) : (s.finish).ops = s.ops := rfl
@[simp] theorem finish_res (s : State) : (s.finish).res = s.res := rfl
@[simp] theorem finish_ctl (s : State) :
    (s.finish).ctl = { s.ctl with busy := false, done := true, midway := false } := rfl
@[simp] theorem finish_work (s : State) : (s.finish).work = s.work := rfl
@[simp] theorem finish_trace (s : State) : (s.finish).trace = s.trace := rfl
@[simp] theorem finish_env (s : State) : (s.finish).env = s.env := rfl
@[simp] theorem finish_inbox (s : State) : (s.finish).inbox = s.inbox := rfl
@[simp] theorem finish_hostData (s : State) : (s.finish).hostData = s.hostData := rfl

/-! ### start -/

@[simp] theorem start_ops (op : Byte) (s : State) :
    (s.start op).ops = { s.ops with cmd := op } := rfl
@[simp] theorem start_res (op : Byte) (s : State) : (s.start op).res = Results.zero := rfl
@[simp] theorem start_ctl (op : Byte) (s : State) :
    (s.start op).ctl = { s.ctl with
      busy := true, done := false, valid := false, curOp := op, midway := false } := rfl
@[simp] theorem start_work (op : Byte) (s : State) : (s.start op).work = s.work := rfl
@[simp] theorem start_trace (op : Byte) (s : State) : (s.start op).trace = s.trace := rfl
@[simp] theorem start_env (op : Byte) (s : State) : (s.start op).env = s.env := rfl
@[simp] theorem start_inbox (op : Byte) (s : State) : (s.start op).inbox = s.inbox := rfl
@[simp] theorem start_hostData (op : Byte) (s : State) : (s.start op).hostData = s.hostData := rfl

/-! ### The ports -/

@[simp] theorem txWrite_ops (b : List Byte) (s : State) :
    (txWrite b s).2.ops = s.ops := rfl
@[simp] theorem txWrite_res (b : List Byte) (s : State) :
    (txWrite b s).2.res = s.res := rfl
@[simp] theorem txWrite_ctl (b : List Byte) (s : State) :
    (txWrite b s).2.ctl = s.ctl := rfl
@[simp] theorem txWrite_work (b : List Byte) (s : State) :
    (txWrite b s).2.work = s.work := rfl
@[simp] theorem txWrite_trace (b : List Byte) (s : State) :
    (txWrite b s).2.trace = s.trace ++ [.tx b s.env.takeTx.1] := rfl
@[simp] theorem txWrite_env (b : List Byte) (s : State) :
    (txWrite b s).2.env = s.env.takeTx.2 := rfl
@[simp] theorem txWrite_inbox (b : List Byte) (s : State) :
    (txWrite b s).2.inbox = s.inbox := rfl
@[simp] theorem txWrite_hostData (b : List Byte) (s : State) :
    (txWrite b s).2.hostData = s.hostData := rfl
@[simp] theorem txWrite_answer (b : List Byte) (s : State) : (txWrite b s).1 = s.env.takeTx.1 := rfl

@[simp] theorem rxRead_ops (n : Nat) (c : ReadClass) (s : State) :
    (rxRead n c s).2.ops = s.ops := rfl
@[simp] theorem rxRead_res (n : Nat) (c : ReadClass) (s : State) :
    (rxRead n c s).2.res = s.res := rfl
@[simp] theorem rxRead_ctl (n : Nat) (c : ReadClass) (s : State) :
    (rxRead n c s).2.ctl = s.ctl := rfl
@[simp] theorem rxRead_work (n : Nat) (c : ReadClass) (s : State) :
    (rxRead n c s).2.work = s.work := rfl
@[simp] theorem rxRead_trace (n : Nat) (c : ReadClass) (s : State) :
    (rxRead n c s).2.trace = s.trace ++ [.rx n c (s.env.takeRx n).1] := rfl
@[simp] theorem rxRead_env (n : Nat) (c : ReadClass) (s : State) :
    (rxRead n c s).2.env = (s.env.takeRx n).2 := rfl
@[simp] theorem rxRead_inbox (n : Nat) (c : ReadClass) (s : State) :
    (rxRead n c s).2.inbox = s.inbox := rfl
@[simp] theorem rxRead_hostData (n : Nat) (c : ReadClass) (s : State) :
    (rxRead n c s).2.hostData = s.hostData := rfl
@[simp] theorem rxRead_answer (n : Nat) (c : ReadClass) (s : State) :
    (rxRead n c s).1 = (s.env.takeRx n).1 := rfl

@[simp] theorem sleep_ops (ms : Word) (s : State) : (sleep ms s).ops = s.ops := rfl
@[simp] theorem sleep_res (ms : Word) (s : State) : (sleep ms s).res = s.res := rfl
@[simp] theorem sleep_ctl (ms : Word) (s : State) : (sleep ms s).ctl = s.ctl := rfl
@[simp] theorem sleep_work (ms : Word) (s : State) : (sleep ms s).work = s.work := rfl
@[simp] theorem sleep_trace (ms : Word) (s : State) : (sleep ms s).trace = s.trace ++ [.sleep ms] := rfl
@[simp] theorem sleep_env (ms : Word) (s : State) : (sleep ms s).env = s.env := rfl
@[simp] theorem sleep_inbox (ms : Word) (s : State) : (sleep ms s).inbox = s.inbox := rfl
@[simp] theorem sleep_hostData (ms : Word) (s : State) : (sleep ms s).hostData = s.hostData := rfl

/-! ### Reset -/

@[simp] theorem warmReset_ops (s : State) : s.warmReset.ops = Operands.zero := rfl
@[simp] theorem warmReset_res (s : State) : s.warmReset.res = Results.zero := rfl
@[simp] theorem warmReset_ctl (s : State) : s.warmReset.ctl = Control.rest := rfl
@[simp] theorem warmReset_work (s : State) : s.warmReset.work = Work.zero := rfl
@[simp] theorem warmReset_trace (s : State) : s.warmReset.trace = [] := rfl
@[simp] theorem warmReset_env (s : State) : s.warmReset.env = s.env := rfl
@[simp] theorem warmReset_inbox (s : State) : s.warmReset.inbox = s.inbox := rfl
@[simp] theorem warmReset_hostData (s : State) : s.warmReset.hostData = s.hostData := rfl
@[simp] theorem reset_ops : State.reset.ops = Operands.zero := rfl
@[simp] theorem reset_res : State.reset.res = Results.zero := rfl
@[simp] theorem reset_ctl : State.reset.ctl = Control.rest := rfl
@[simp] theorem reset_work : State.reset.work = Work.zero := rfl
@[simp] theorem reset_trace : State.reset.trace = [] := rfl
@[simp] theorem reset_env : State.reset.env = Env.free := rfl
@[simp] theorem reset_inbox : State.reset.inbox = [] := rfl
@[simp] theorem reset_hostData : State.reset.hostData = 0 := rfl

/-! ### STAT -/

/-- What STAT reads after a command has returned (10_state.md R32). -/
theorem stat_of_returned {s : State} {v : Bool} (hb : s.ctl.busy = false) (hd : s.ctl.done = true)
    (hv : s.ctl.valid = v) : s.stat = if v then 0x06 else 0x02 := by
  unfold State.stat
  rw [hb, hd, hv]
  cases v <;> decide

end Sys2Proof.Machine
end

