-- ==== Sys2Proof/Laws/Framer.lean ====
section
/-! SUPPORT. What the ports and `read_frame` can do, said once. -/

namespace Sys2Proof.Machine

/-- A read never returns more than it asked for (20_memory.md R59). -/
theorem takeRx_length_le (n : Nat) (e : Env) : (e.takeRx n).1.length ≤ n := by
  unfold Env.takeRx
  split <;> simp [List.length_take]

/-- A read that finds a chunk no longer than it asked for returns all of it. -/
theorem takeRx_cons {n : Nat} {e : Env} {c : List Byte} {rest : List (List Byte)}
    (h : e.rx = c :: rest) (hn : c.length ≤ n) : e.takeRx n = (c, { e with rx := rest }) := by
  simp [Env.takeRx, h, hn, List.take_of_length_le hn]

/-- A write finds the answer written down. -/
theorem takeTx_cons {e : Env} {ok : Bool} {rest : List Bool} (h : e.tx = ok :: rest) :
    e.takeTx = (ok, { e with tx := rest }) := by
  simp [Env.takeTx, h]

@[simp] theorem bytesRead_nil : bytesRead [] = [] := rfl

@[simp] theorem bytesRead_rx (n : Nat) (c : ReadClass) (b : List Byte) (evs : List Event) :
    bytesRead (.rx n c b :: evs) = b ++ bytesRead evs := rfl

/-- The state after the events `evs` (the environment is then `env'`) with `b` in the receive buffer. -/
def afterReads (s : State) (env' : Env) (evs : List Event) (b : List Byte) (e : Nat) : State :=
  { s with env := env', trace := s.trace ++ evs }.latchRx b e

/-- Everything the loop of `read_frame` can do, which the environment alone decides: it makes only NEXT
reads, returns what it had and what they brought, never more than `maxLen` bytes, makes at most
`3 × room − e` reads, counts the empty ones in a row, and stops only for a complete frame, a full buffer
or three empty reads. -/
theorem assemble_spec (maxLen : Nat) :
    ∀ (fuel : Nat) (acc : List Byte) (e : Nat) (env : Env),
      acc.length ≤ maxLen → e < 3 → 3 * (maxLen - acc.length) - e < fuel →
      ∃ evs e',
        (∀ s : State, s.env = env →
          assemble fuel maxLen acc e s =
            (acc ++ bytesRead evs,
              afterReads s (evs.foldl Env.consume env) evs (acc ++ bytesRead evs) e')) ∧
        evs.all isNextRead = true ∧ (acc ++ bytesRead evs).length ≤ maxLen ∧
        evs.length ≤ 3 * (maxLen - acc.length) - e ∧
        (frameComplete (acc ++ bytesRead evs) = true ∨ (acc ++ bytesRead evs).length = maxLen ∨
          e' = 3) ∧
        e' = evs.foldl countEmpty e ∧ e' ≤ 3
  | 0, acc, e, env, hl, he, hf => by omega
  | fuel + 1, acc, e, env, hl, he, hf => by
    by_cases hc : frameComplete acc = true
    · refine ⟨[], e, ?_, rfl, by simpa using hl, by simp, .inl (by simpa using hc), rfl, by omega⟩
      intro s hs
      simp [assemble, hc, afterReads, ← hs]
    by_cases hm : maxLen ≤ acc.length
    · refine ⟨[], e, ?_, rfl, by simpa using hl, by simp, .inr (.inl (by simp; omega)), rfl, by omega⟩
      intro s hs
      simp [assemble, hc, hm, afterReads, ← hs]
    have hlen := takeRx_length_le (maxLen - acc.length) env
    have hcons : (env.takeRx (maxLen - acc.length)).2 =
        env.consume (.rx (maxLen - acc.length) .next (env.takeRx (maxLen - acc.length)).1) := rfl
    by_cases hemp : (env.takeRx (maxLen - acc.length)).1 = []
    · by_cases h3 : e + 1 = 3
      · refine ⟨[.rx (maxLen - acc.length) .next []], 3, ?_, rfl, by simpa using hl, ?_,
          .inr (.inr rfl), by simp [countEmpty, h3], by omega⟩
        · intro s hs
          simp [assemble, hc, hm, hs, rxRead, hemp, h3, afterReads, Env.consume]
        · simp; omega
      · obtain ⟨evs, e', heq, hall, hle, hcnt, hstop, hcount, h3'⟩ :=
          assemble_spec maxLen fuel acc (e + 1) (env.takeRx (maxLen - acc.length)).2 hl
            (by omega) (by omega)
        refine ⟨.rx (maxLen - acc.length) .next [] :: evs, e', ?_, ?_, ?_, ?_, ?_,
          by simpa [countEmpty] using hcount, h3'⟩
        · intro s hs
          have := heq (rxRead (maxLen - acc.length) .next s).2 (by simp [hs])
          simp [assemble, hc, hm, hs, hemp, h3, this, afterReads, Env.consume]
        · simpa [isNextRead] using hall
        · simpa using hle
        · simp; omega
        · simpa using hstop
    · have hpos : 0 < (env.takeRx (maxLen - acc.length)).1.length := List.length_pos_of_ne_nil hemp
      obtain ⟨evs, e', heq, hall, hle, hcnt, hstop, hcount, h3'⟩ :=
        assemble_spec maxLen fuel (acc ++ (env.takeRx (maxLen - acc.length)).1) 0
          (env.takeRx (maxLen - acc.length)).2 (by simp; omega) (by omega) (by simp; omega)
      refine ⟨.rx (maxLen - acc.length) .next (env.takeRx (maxLen - acc.length)).1 :: evs, e',
        ?_, ?_, ?_, ?_, ?_, by simpa [countEmpty, hemp] using hcount, h3'⟩
      · intro s hs
        have := heq (rxRead (maxLen - acc.length) .next s).2 (by simp [hs])
        simp [assemble, hc, hm, hs, hemp, this, afterReads, Env.consume]
      · simpa [isNextRead] using hall
      · simpa using hle
      · simp at hcnt ⊢; omega
      · simpa using hstop

/-- Everything `read_frame(n)` can do, for `n ≥ 1`, which the environment alone decides: its events are
one FIRST read and NEXT reads, its result is what they brought, in order (42_stream_framer.md R157). -/
theorem readFrame_spec {n : Nat} (hn : 1 ≤ n) (env : Env) :
    ∃ first nexts e,
      (∀ s : State, s.env = env →
        readFrame n s =
          (bytesRead (.rx n .first first :: nexts),
            afterReads s ((Event.rx n .first first :: nexts).foldl Env.consume env)
              (.rx n .first first :: nexts) (bytesRead (.rx n .first first :: nexts)) e)) ∧
      first = (env.takeRx n).1 ∧
      nexts.all isNextRead = true ∧ (bytesRead (.rx n .first first :: nexts)).length ≤ n ∧
      nexts.length + 1 ≤ 3 * n - 2 ∧
      (first = [] → nexts = []) ∧
      (first = [] ∨ frameComplete (bytesRead (.rx n .first first :: nexts)) = true ∨
        (bytesRead (.rx n .first first :: nexts)).length = n ∨ e = 3) ∧
      e = emptyReads (.rx n .first first :: nexts) ∧ e ≤ 3 := by
  have hlen := takeRx_length_le n env
  by_cases hemp : (env.takeRx n).1 = []
  · refine ⟨[], [], 0, ?_, hemp.symm, rfl, by simp, by simp; omega, by simp, .inl rfl, rfl,
      by omega⟩
    intro s hs
    simp [readFrame, rxRead, hs, hemp, afterReads, Env.consume]
  · have hpos : 0 < (env.takeRx n).1.length := List.length_pos_of_ne_nil hemp
    obtain ⟨evs, e', heq, hall, hle, hcnt, hstop, hcount, h3⟩ :=
      assemble_spec n (3 * n) (env.takeRx n).1 0 (env.takeRx n).2 hlen (by omega) (by omega)
    refine ⟨(env.takeRx n).1, evs, e', ?_, rfl, hall, by simpa using hle, by omega, ?_, ?_,
      hcount, h3⟩
    · intro s hs
      have := heq (rxRead n .first s).2 (by simp [hs])
      simp [readFrame, hs, hemp, this, afterReads, Env.consume]
    · intro h; exact absurd h hemp
    · exact .inr (by simpa using hstop)

/-- A first read that times out ends `read_frame` with nothing (42_stream_framer.md R148). -/
theorem readFrame_silent {n : Nat} {s : State} {rest : List (List Byte)} (h : s.env.rx = [] :: rest) :
    readFrame n s = ([], afterReads s { s.env with rx := rest } [.rx n .first []] [] 0) := by
  unfold readFrame
  have := takeRx_cons (n := n) h (by simp)
  simp [rxRead, this, afterReads]

/-- A first read that brings a complete frame ends `read_frame` (42_stream_framer.md R151). -/
theorem readFrame_whole {n : Nat} {s : State} {c : List Byte} {rest : List (List Byte)}
    (h : s.env.rx = c :: rest) (hn : c.length ≤ n) (hc : frameComplete c = true) :
    readFrame n s = (c, afterReads s { s.env with rx := rest } [.rx n .first c] c 0) := by
  unfold readFrame
  have hne : c ≠ [] := by
    rintro rfl
    simp [frameComplete] at hc
  have ht := takeRx_cons h hn
  have hpos : 0 < c.length := List.length_pos_of_ne_nil hne
  obtain ⟨k, hk⟩ : ∃ k, 3 * n = k + 1 := ⟨3 * n - 1, by omega⟩
  simp [rxRead, ht, hne, hk, assemble, hc, afterReads]

end Sys2Proof.Machine
end

