-- ==== Sys2Proof/Laws/Exchange.lean ====
section
/-! SUPPORT. What an exchange (43_device_handlers.md R160) can do, said once. -/

namespace Sys2Proof.Machine

/-- The accumulator an exchange leaves: the request's checksum, or the response's if one was verified
on at least 5 bytes. -/
def exchangeCrc (ok : Bool) (rx body : List Byte) : Half :=
  if ok = true ∧ 5 ≤ rx.length then crc16 (frameBody rx) else crc16 body

/-- The working registers an exchange leaves. -/
def exchangeWork (w : Work) (a f : Byte) (t : Tag) (p : List Byte) (ok : Bool) (rx : List Byte)
    (e : Nat) : Work :=
  { w with
    crc := exchangeCrc ok rx (requestBody a f p t)
    txbuf := w.txbuf.writeBytes 0 (requestFrame a f p t)
    txlen := BitVec.ofNat 7 (requestFrame a f p t).length
    rxbuf := w.rxbuf.writeBytes 0 rx
    rxlen := BitVec.ofNat 7 rx.length
    emptyPolls := BitVec.ofNat 2 e
    hAddr := a
    hFunc := f
    hTag := t
    wrFail := !ok }

/-- What `read_frame` returns and leaves decides the whole of `transact`: its events, its verdict and its
working registers; nothing else changes. -/
theorem transact_eq {a f : Byte} {p : List Byte} {t : Tag} {s : State} (hp : p.length ≤ 56)
    {evs : List Event} {env' : Env} {e : Nat} {rx : List Byte}
    (hr : ∀ u : State, u.env = s.env.takeTx.2 →
      readFrame 64 u = (rx, afterReads u env' evs rx e)) :
    transact a f p t s =
      (verdict s.env.takeTx.1 rx a f,
        { s with
          work := exchangeWork s.work a f t p s.env.takeTx.1 rx e
          trace := s.trace ++
            .tx (requestFrame a f p t) s.env.takeTx.1 :: .sleep Config.tGuard :: evs
          env := env' }) := by
  have h56 : ¬ Config.maxFrame < p.length + Config.overhead := by
    simp only [Config.maxFrame, Config.overhead]; omega
  have hx : ∀ u : State, u.env = s.env →
      exchange (requestFrame a f p t) a f u =
        judgeResponse rx a f (afterReads (sleep Config.tGuard
          ((txWrite (requestFrame a f p t) u).2.setWrFail
            (!(txWrite (requestFrame a f p t) u).1))) env' evs rx e) := by
    intro u hu
    unfold exchange
    simp only [Config.maxFrame]
    rw [hr _ (by simp [hu])]
  unfold transact buildRequest
  simp only [h56, if_false]
  rw [hx _ (by simp)]
  unfold judgeResponse verdict verifyFrame
  simp only [exchangeWork, exchangeCrc, afterReads, State.latchRx, State.setWrFail, State.latchTx,
    State.latchRequest, State.setCrc, sleep, State.log, txWrite]
  rcases Bool.eq_false_or_eq_true s.env.takeTx.1 with hok | hok
  swap
  · simp [hok]
  · by_cases hrx : rx = []
    · subst hrx; simp [hok]
    · by_cases h5 : rx.length < 5
      · have h5' : ¬ 5 ≤ rx.length := by omega
        simp [hok, hrx, h5, h5']
      · have h5' : 5 ≤ rx.length := by omega
        simp [hok, hrx, h5, h5']

/-- Everything an exchange can do, whatever its outcome, which the environment alone decides
(43_device_handlers.md R160, R161). -/
theorem transact_spec (env : Env) :
    ∃ first nexts e,
      (∀ (a f : Byte) (p : List Byte) (t : Tag) (s : State), p.length ≤ 56 → s.env = env →
        transact a f p t s =
          (verdict env.takeTx.1 (bytesRead (.rx 64 .first first :: nexts)) a f,
            { s with
              work := exchangeWork s.work a f t p env.takeTx.1
                (bytesRead (.rx 64 .first first :: nexts)) e
              trace := s.trace ++
                .tx (requestFrame a f p t) env.takeTx.1 :: .sleep Config.tGuard ::
                  .rx 64 .first first :: nexts
              env := (Event.rx 64 .first first :: nexts).foldl Env.consume env.takeTx.2 })) ∧
      first = (env.takeTx.2.takeRx 64).1 ∧
      nexts.all isNextRead = true ∧ (bytesRead (.rx 64 .first first :: nexts)).length ≤ 64 ∧
      nexts.length ≤ 189 ∧ (first = [] → nexts = []) ∧
      e = emptyReads (.rx 64 .first first :: nexts) ∧ e ≤ 3 := by
  obtain ⟨first, nexts, e, heq, hf, hall, hlen, hcnt, hemp, -, hcount⟩ :=
    readFrame_spec (n := 64) (by omega) env.takeTx.2
  refine ⟨first, nexts, e, ?_, hf, hall, hlen, by omega, hemp, hcount⟩
  intro a f p t s hp hs
  subst hs
  exact transact_eq hp heq

/-- An exchange whose write finds `ok` and whose one read finds `c`: nothing, or a complete frame. -/
theorem transact_scripted {a f : Byte} {p : List Byte} {t : Tag} {s : State} (hp : p.length ≤ 56)
    {ok : Bool} {txs : List Bool} {c : List Byte} {rxs : List (List Byte)}
    (htx : s.env.tx = ok :: txs) (hrx : s.env.rx = c :: rxs) (hc : c.length ≤ 64)
    (hcc : c = [] ∨ frameComplete c = true) :
    transact a f p t s =
      (verdict ok c a f,
        { s with
          work := exchangeWork s.work a f t p ok c 0
          trace := s.trace ++
            [.tx (requestFrame a f p t) ok, .sleep Config.tGuard, .rx 64 .first c]
          env := { s.env with tx := txs, rx := rxs } }) := by
  have e1 := takeTx_cons htx
  have hrd : ∀ u : State, u.env = s.env.takeTx.2 →
      readFrame 64 u =
        (c, afterReads u { s.env with tx := txs, rx := rxs } [.rx 64 .first c] c 0) := by
    intro u hu
    have hu' : u.env = { s.env with tx := txs } := by rw [hu, e1]
    rcases hcc with rfl | hcc
    · rw [readFrame_silent (rest := rxs) (by rw [hu']; exact hrx), hu']
    · rw [readFrame_whole (rest := rxs) (by rw [hu']; exact hrx) hc hcc, hu']
  rw [transact_eq hp hrd, e1]

end Sys2Proof.Machine
end

