-- ==== Sys2Proof/Laws/Capture.lean ====
section
/-! SUPPORT. What a transition of the orchestrator (44_capture_orchestrator.md) can do, said once, and
the iteration of transitions. -/

namespace Sys2Proof.Machine

/-- `u` is `s` after one exchange: only the exchange's working registers, the environment and the trace
have changed, and the trace by the events of one exchange. -/
def exchanged (s u : State) : Prop :=
  u.ops = s.ops ∧ u.res = s.res ∧ u.ctl = s.ctl ∧ u.inbox = s.inbox ∧ u.hostData = s.hostData ∧
  u.work.attempt = s.work.attempt ∧ u.work.pollCount = s.work.pollCount ∧
  u.work.pollBudget = s.work.pollBudget ∧ u.work.elapsed = s.work.elapsed ∧
  ∃ frame evs, u.trace = s.trace ++ evs ∧ isExchange frame evs = true ∧ evs.length ≤ 192

theorem transact_exchanged {a f : Byte} {p : List Byte} {t : Tag} (hp : p.length ≤ 56) (s : State) :
    exchanged s (transact a f p t s).2 := by
  obtain ⟨first, nexts, e, heq, -, hall, -, hcnt, -⟩ := transact_spec s.env
  rw [heq a f p t s hp rfl]
  refine ⟨rfl, rfl, rfl, rfl, rfl, rfl, rfl, rfl, rfl, requestFrame a f p t, _, rfl, ?_, ?_⟩
  · simp [isExchange, isFrameRead, hall, Config.tGuard]
  · simp; omega

theorem andThen_snd {α β : Type} (r : Except Err α × State) (g : α → Except Err β) :
    (andThen r g).2 = r.2 := by
  unfold andThen
  split <;> rfl

theorem triggerCapture_exchanged (a : Byte) (t : Tag) (s : State) :
    exchanged s (triggerCapture a t s).2 := by
  unfold triggerCapture writeRegister
  rw [andThen_snd]
  exact transact_exchanged (by simp) s

theorem resetTrigger_exchanged (a : Byte) (t : Tag) (s : State) :
    exchanged s (resetTrigger a t s).2 := by
  unfold resetTrigger writeRegister
  rw [andThen_snd]
  exact transact_exchanged (by simp) s

theorem readStatus_exchanged (a : Byte) (t : Tag) (s : State) :
    exchanged s (readStatus a t s).2 := by
  unfold readStatus
  rw [andThen_snd]
  exact transact_exchanged (by simp) s

theorem readData_exchanged (a : Byte) (t : Tag) (s : State) :
    exchanged s (readData a t s).2 := by
  unfold readData
  rw [andThen_snd]
  exact transact_exchanged (by simp) s

/-! ## What a handler call says and puts on the wire -/

/-- The verdict and the trace of an exchange, by its write and its reads (43_device_handlers.md R160 to
R162). -/
theorem transact_wire {a f : Byte} {p : List Byte} {t : Tag} (hp : p.length ≤ 56) (s : State) :
    ∃ ok reads, ok = s.env.takeTx.1 ∧ isFrameRead 64 reads = true ∧
      (transact a f p t s).1 = verdict ok (bytesRead reads) a f ∧
      (transact a f p t s).2.trace = s.trace ++ .tx (requestFrame a f p t) ok :: .sleep 50 :: reads := by
  obtain ⟨first, nexts, e, heq, -, hall, -⟩ := transact_spec s.env
  rw [heq a f p t s hp rfl]
  exact ⟨_, .rx 64 .first first :: nexts, rfl, by simp [isFrameRead, hall], rfl, rfl⟩

theorem andThen_fst {α β : Type} (r : Except Err α × State) (g : α → Except Err β) :
    (andThen r g).1 = r.1.bind g := by
  unfold andThen
  split <;> rename_i h <;> rw [h] <;> rfl

theorem triggerCapture_wire (s : State) (o : Operands) :
    ∃ ok reads, ok = s.env.takeTx.1 ∧ isFrameRead 64 reads = true ∧
      (triggerCapture o.addr o.tag s).1 =
        (verdict ok (bytesRead reads) o.addr 0x10).map (fun _ => ()) ∧
      (triggerCapture o.addr o.tag s).2.trace =
        s.trace ++ .tx ((handlerRequest o .triggerCapture).getD []) ok :: .sleep 50 :: reads := by
  obtain ⟨ok, reads, h1, h2, h3, h4⟩ := transact_wire (a := o.addr) (f := Config.fcWmr)
    (p := wmrPayload Config.regTrigger [1]) (t := o.tag) (by simp) s
  refine ⟨ok, reads, h1, h2, ?_, ?_⟩
  · unfold triggerCapture writeRegister
    rw [andThen_fst, h3]
    cases verdict ok (bytesRead reads) o.addr Config.fcWmr <;> rfl
  · unfold triggerCapture writeRegister
    rw [andThen_snd, h4]
    rfl

theorem readStatus_wire (s : State) (o : Operands) :
    ∃ ok reads, ok = s.env.takeTx.1 ∧ isFrameRead 64 reads = true ∧
      (readStatus o.addr o.tag s).1 =
        (verdict ok (bytesRead reads) o.addr 0x03).bind statusOfPayload ∧
      (readStatus o.addr o.tag s).2.trace =
        s.trace ++ .tx ((handlerRequest o .readStatus).getD []) ok :: .sleep 50 :: reads := by
  obtain ⟨ok, reads, h1, h2, h3, h4⟩ := transact_wire (a := o.addr) (f := Config.fcRhr)
    (p := rhrPayload Config.regStatus 1) (t := o.tag) (by simp) s
  refine ⟨ok, reads, h1, h2, ?_, ?_⟩
  · unfold readStatus
    rw [andThen_fst, h3]
  · unfold readStatus
    rw [andThen_snd, h4]
    rfl

theorem readData_wire (s : State) (o : Operands) :
    ∃ ok reads, ok = s.env.takeTx.1 ∧ isFrameRead 64 reads = true ∧
      (readData o.addr o.tag s).1 =
        (verdict ok (bytesRead reads) o.addr 0x03).bind readingOfPayload ∧
      (readData o.addr o.tag s).2.trace =
        s.trace ++ .tx ((handlerRequest o .readData).getD []) ok :: .sleep 50 :: reads := by
  obtain ⟨ok, reads, h1, h2, h3, h4⟩ := transact_wire (a := o.addr) (f := Config.fcRhr)
    (p := rhrPayload Config.regStatus Config.nDataRegs) (t := o.tag) (by simp) s
  refine ⟨ok, reads, h1, h2, ?_, ?_⟩
  · unfold readData
    rw [andThen_fst, h3]
  · unfold readData
    rw [andThen_snd, h4]
    rfl

/-- What a turn at `Idle` can do (R183, R184). -/
theorem orchIdle_spec (s : State) :
    (s.ops.maxRetries ≤ s.work.attempt ∧ orchIdle s = captureFail s) ∨
    (s.work.attempt < s.ops.maxRetries ∧ ∃ u, exchanged s u ∧
      u = (triggerCapture s.ops.addr s.ops.tag s).2 ∧
      (orchIdle s = u.setOrch .triggered ∨ orchIdle s = triggerFailed u)) := by
  unfold orchIdle
  by_cases h : s.ops.maxRetries ≤ s.work.attempt
  · exact .inl ⟨h, by simp [h]⟩
  · refine .inr ⟨BitVec.not_le.mp h, _, triggerCapture_exchanged _ _ s, rfl, ?_⟩
    simp only [h, if_false]
    generalize triggerCapture s.ops.addr s.ops.tag s = r
    obtain ⟨_ | _, _⟩ := r
    · exact .inr rfl
    · exact .inl rfl

/-- What one poll can do (R186 to R189). -/
theorem pollOnce_spec (s : State) :
    ∃ u, exchanged s u ∧
      (pollOnce s = retryOrFail u ∨ pollOnce s = cadence u ∨
        ∃ v, exchanged u v ∧
          (pollOnce s = cadence v ∨
            ∃ w reading, exchanged v w ∧ pollOnce s = captureSucceed reading w)) := by
  refine ⟨_, readStatus_exchanged s.ops.addr s.ops.tag s, ?_⟩
  unfold pollOnce
  generalize readStatus s.ops.addr s.ops.tag s = r
  obtain ⟨_ | v, u⟩ := r
  · exact .inr (.inl rfl)
  · simp only
    split
    · right; right
      refine ⟨_, readData_exchanged u.ops.addr u.ops.tag u, ?_⟩
      unfold fetchReading
      generalize readData u.ops.addr u.ops.tag u = d
      obtain ⟨_ | reading, v⟩ := d
      · exact .inl rfl
      · exact .inr ⟨_, reading, resetTrigger_exchanged v.ops.addr v.ops.tag v, rfl⟩
    · split
      · exact .inl rfl
      · exact .inr (.inl rfl)

/-- Transitions from a state that meets `P`, each of which keeps `P` and lowers `μ` or returns with `Q`,
end with `Q` once `μ` transitions are allowed. -/
theorem captureLoop_ends {P Q : State → Prop} (μ : State → Nat)
    (hstep : ∀ s, P s → s.ctl.busy = true ∧
      ((P (orchStep s) ∧ μ (orchStep s) < μ s) ∨
        ((orchStep s).ctl.busy = false ∧ Q (orchStep s)))) :
    ∀ n s, P s → μ s < n →
      (captureLoop n s).ctl.busy = false ∧ Q (captureLoop n s)
  | 0, s, _, hn => by omega
  | n + 1, s, hP, hn => by
    obtain ⟨hb, h | h⟩ := hstep s hP
    · simp only [captureLoop, hb, if_true]
      exact captureLoop_ends μ hstep n _ h.1 (by omega)
    · simp only [captureLoop, hb, if_true]
      cases n with
      | zero => exact h
      | succ n => simpa [captureLoop, h.1] using h.2

/-- A returned command makes no further transition. -/
theorem captureLoop_returned {s : State} (h : s.ctl.busy = false) : ∀ n, captureLoop n s = s
  | 0 => rfl
  | n + 1 => by simp [captureLoop, h]

/-- Whatever a transition keeps, the iteration keeps. -/
theorem captureLoop_keeps {P : State → Prop}
    (hstep : ∀ s, P s → s.ctl.busy = true → P (orchStep s)) :
    ∀ n s, P s → P (captureLoop n s)
  | 0, _, h => h
  | n + 1, s, h => by
    unfold captureLoop
    split
    · rename_i hb
      exact captureLoop_keeps hstep n _ (hstep s h hb)
    · exact h

end Sys2Proof.Machine
end

