-- ==== Sys2Proof/Laws/Handlers.lean ====
section
/-! SUPPORT. What the five handler commands can do, said once: one exchange, then the report of its
verdict. -/

namespace Sys2Proof.Machine

/-- What a handler makes of a good payload: the update of its own result registers, or ShortPayload
(43_device_handlers.md R163 to R168). -/
def handlerStore (i : Instr) (p : List Byte) : Except Err (State → State) :=
  if i = .readStatus then
    match statusOfPayload p with
    | .ok v => .ok (State.setStatus v)
    | .error e => .error e
  else if i = .readData then
    match readingOfPayload p with
    | .ok v => .ok (State.setReading v)
    | .error e => .error e
  else .ok id

/-- How a handler ends, given the verdict of its exchange (43_device_handlers.md R169). -/
def handlerEnd (i : Instr) (v : Except Err (List Byte)) (s : State) : State :=
  match v with
  | .error e => (s.reportError e).finish
  | .ok p =>
    match handlerStore i p with
    | .error e => (s.reportError e).finish
    | .ok store => (store s.reportOk).finish

/-- A handler command is its exchange, then the report. -/
theorem exec_handler {i : Instr} {s : State} {a f : Byte} (h : handlerExpects s.ops i = some (a, f)) :
    ∃ p : List Byte, p.length ≤ 56 ∧ handlerRequest s.ops i = some (requestFrame a f p s.ops.tag) ∧
      exec i s =
        .next (handlerEnd i (transact a f p s.ops.tag (s.begin i.opcode)).1
          (transact a f p s.ops.tag (s.begin i.opcode)).2) := by
  cases i <;> simp only [handlerExpects, Option.some.injEq, Prod.mk.injEq, reduceCtorEq] at h
  case triggerCapture =>
    obtain ⟨rfl, rfl⟩ := h
    refine ⟨wmrPayload Config.regTrigger [1], by simp, rfl, ?_⟩
    show Host.Outcome.next (reportHandler (andThen (transact s.ops.addr Config.fcWmr
      (wmrPayload Config.regTrigger [1]) s.ops.tag (s.begin (Instr.opcode .triggerCapture))) fun _ => .ok ())
      fun _ t => t).finish = _
    unfold reportHandler andThen handlerEnd
    generalize transact s.ops.addr _ _ s.ops.tag _ = r
    obtain ⟨_ | _, _⟩ := r <;> rfl
  case resetTrigger =>
    obtain ⟨rfl, rfl⟩ := h
    refine ⟨wmrPayload Config.regTrigger [0], by simp, rfl, ?_⟩
    show Host.Outcome.next (reportHandler (andThen (transact s.ops.addr Config.fcWmr
      (wmrPayload Config.regTrigger [0]) s.ops.tag (s.begin (Instr.opcode .resetTrigger))) fun _ => .ok ())
      fun _ t => t).finish = _
    unfold reportHandler andThen handlerEnd
    generalize transact s.ops.addr _ _ s.ops.tag _ = r
    obtain ⟨_ | _, _⟩ := r <;> rfl
  case updateBoard =>
    obtain ⟨rfl, rfl⟩ := h
    refine ⟨s.ops.boardPayload, ?_, ?_, ?_⟩
    · simp [Operands.boardPayload]
    · simp [handlerRequest, Operands.boardPayload, requestFrame, requestBody, wmrPayload, tagBytes,
        be16, hi8, lo8]
    show Host.Outcome.next (reportHandler (andThen (transact Config.addrBoard Config.fcWmr
      s.ops.boardPayload s.ops.tag (s.begin (Instr.opcode .updateBoard))) fun _ => .ok ())
      fun _ t => t).finish = _
    unfold reportHandler andThen handlerEnd
    generalize transact Config.addrBoard _ _ s.ops.tag _ = r
    obtain ⟨_ | _, _⟩ := r <;> rfl
  case readStatus =>
    obtain ⟨rfl, rfl⟩ := h
    refine ⟨rhrPayload Config.regStatus 1, by simp, rfl, ?_⟩
    show Host.Outcome.next (reportHandler (andThen (transact s.ops.addr Config.fcRhr
      (rhrPayload Config.regStatus 1) s.ops.tag (s.begin (Instr.opcode .readStatus))) statusOfPayload)
      State.setStatus).finish = _
    unfold reportHandler andThen handlerEnd handlerStore
    generalize transact s.ops.addr _ _ s.ops.tag _ = r
    obtain ⟨_ | p, _⟩ := r
    · rfl
    · simp only [if_true]
      cases statusOfPayload p <;> rfl
  case readData =>
    obtain ⟨rfl, rfl⟩ := h
    refine ⟨rhrPayload Config.regStatus Config.nDataRegs, by simp, rfl, ?_⟩
    show Host.Outcome.next (reportHandler (andThen (transact s.ops.addr Config.fcRhr
      (rhrPayload Config.regStatus Config.nDataRegs) s.ops.tag (s.begin (Instr.opcode .readData))) readingOfPayload)
      State.setReading).finish = _
    unfold reportHandler andThen handlerEnd handlerStore
    generalize transact s.ops.addr _ _ s.ops.tag _ = r
    obtain ⟨_ | p, _⟩ := r
    · rfl
    · simp only [if_true, reduceCtorEq, if_false]
      cases readingOfPayload p <;> rfl

/-- A handler command has both a request and an expectation, or neither. -/
theorem handlerExpects_of_request {o : Operands} {i : Instr} {frame : List Byte}
    (h : handlerRequest o i = some frame) : ∃ a f, handlerExpects o i = some (a, f) := by
  cases i <;> simp [handlerRequest, handlerExpects] at h ⊢

/-- The report of a handler touches only the result registers and the flags. -/
theorem handlerEnd_frame (i : Instr) (v : Except Err (List Byte)) (s : State) :
    (handlerEnd i v s).ops = s.ops ∧ (handlerEnd i v s).work = s.work ∧
    (handlerEnd i v s).trace = s.trace ∧ (handlerEnd i v s).env = s.env ∧
    (handlerEnd i v s).inbox = s.inbox ∧ (handlerEnd i v s).hostData = s.hostData ∧
    (handlerEnd i v s).ctl.orch = s.ctl.orch ∧ (handlerEnd i v s).ctl.curOp = s.ctl.curOp ∧
    (handlerEnd i v s).ctl.busy = false ∧ (handlerEnd i v s).ctl.done = true ∧
    (handlerEnd i v s).ctl.midway = false := by
  unfold handlerEnd
  cases v with
  | error e => simp [State.finish, State.reportError]
  | ok p =>
    dsimp only
    cases h : handlerStore i p with
    | error e => simp [State.finish, State.reportError]
    | ok store =>
      have : store = id ∨ (∃ v, store = State.setStatus v) ∨ (∃ r, store = State.setReading r) := by
        unfold handlerStore at h
        repeat' split at h
        all_goals cases h
        · exact .inr (.inl ⟨_, rfl⟩)
        · exact .inr (.inr ⟨_, rfl⟩)
        · exact .inl rfl
      rcases this with rfl | ⟨v, rfl⟩ | ⟨r, rfl⟩ <;>
        simp [State.finish, State.setStatus, State.setReading, State.reportOk]

/-- The report depends on the verdict, on the flags and on the result registers alone. -/
theorem handlerEnd_eq (i : Instr) (v : Except Err (List Byte)) (s : State) :
    handlerEnd i v s =
      { s with
        res := (handlerEnd i v { State.reset with res := s.res, ctl := s.ctl }).res
        ctl := (handlerEnd i v { State.reset with res := s.res, ctl := s.ctl }).ctl } := by
  unfold handlerEnd
  cases v with
  | error e => rfl
  | ok p =>
    dsimp only
    cases h : handlerStore i p with
    | error e => rfl
    | ok store =>
      unfold handlerStore at h
      repeat' split at h
      all_goals cases h
      all_goals rfl

/-- Everything a handler command can do, which the environment alone decides. -/
theorem handler_spec (env : Env) :
    ∃ first nexts e,
      (∀ (i : Instr) (s : State) (a f : Byte), s.env = env → handlerExpects s.ops i = some (a, f) →
        ∃ p : List Byte, p.length ≤ 56 ∧
          handlerRequest s.ops i = some (requestFrame a f p s.ops.tag) ∧
          exec i s = .next (handlerEnd i
            (verdict env.takeTx.1 (bytesRead (.rx 64 .first first :: nexts)) a f)
            { s.begin i.opcode with
              work := exchangeWork s.work a f s.ops.tag p env.takeTx.1
                (bytesRead (.rx 64 .first first :: nexts)) e
              trace := s.trace ++ .tx (requestFrame a f p s.ops.tag) env.takeTx.1 ::
                .sleep Config.tGuard :: .rx 64 .first first :: nexts
              env := (Event.rx 64 .first first :: nexts).foldl Env.consume env.takeTx.2 })) ∧
      first = (env.takeTx.2.takeRx 64).1 ∧
      nexts.all isNextRead = true ∧ (bytesRead (.rx 64 .first first :: nexts)).length ≤ 64 ∧
      nexts.length ≤ 189 ∧ (first = [] → nexts = []) ∧
      e = emptyReads (.rx 64 .first first :: nexts) ∧ e ≤ 3 := by
  obtain ⟨first, nexts, e, heq, hf, hall, hlen, hcnt, hemp⟩ := transact_spec env
  refine ⟨first, nexts, e, ?_, hf, hall, hlen, hcnt, hemp⟩
  intro i s a f hs h
  obtain ⟨p, hp, hreq, hex⟩ := exec_handler h
  refine ⟨p, hp, hreq, ?_⟩
  rw [hex, heq a f p s.ops.tag (s.begin i.opcode) hp hs]
  rfl

end Sys2Proof.Machine
end

