-- ==== Sys2Proof/Laws/Memory.lean ====
section
/-! SUPPORT. The laws of the byte buffers: every operation keeps the canonical form; a read after a
write gives the byte written at that index and the old byte at every other. -/

namespace Sys2Proof.Machine

theorem Memory.wfFrom_mono {lo lo' : Nat} (h : lo' ≤ lo) :
    ∀ {m : Memory}, Memory.wfFrom lo m = true → Memory.wfFrom lo' m = true
  | [], _ => rfl
  | (a, b) :: m, hm => by
    simp only [Memory.wfFrom, Bool.and_eq_true, decide_eq_true_eq] at hm ⊢
    exact ⟨⟨le_trans h hm.1.1, hm.1.2⟩, hm.2⟩

theorem Memory.empty_wf : Memory.wf Memory.empty = true := rfl

@[simp] theorem Memory.read_empty (i : Nat) : Memory.read Memory.empty i = 0 := rfl

/-- Below every listed index a buffer in canonical form reads as unlisted. -/
theorem Memory.read_below {lo i : Nat} (hi : i < lo) :
    ∀ {m : Memory}, Memory.wfFrom lo m = true → Memory.read m i = Memory.unlisted
  | [], _ => rfl
  | (a, b) :: m, hm => by
    simp only [Memory.wfFrom, Bool.and_eq_true, decide_eq_true_eq] at hm
    have hne : i ≠ a := by omega
    simp only [Memory.read, hne, if_false]
    exact Memory.read_below (by omega : i < a + 1) hm.2

theorem Memory.write_wfFrom {lo i : Nat} (hi : lo ≤ i) (v : Byte) :
    ∀ {m : Memory}, Memory.wfFrom lo m = true → Memory.wfFrom lo (Memory.write m i v) = true
  | [], _ => by
    simp only [Memory.write]
    split
    · rfl
    · simp_all [Memory.wfFrom]
  | (a, b) :: m, hm => by
    have hm' := hm
    simp only [Memory.wfFrom, Bool.and_eq_true, decide_eq_true_eq] at hm
    obtain ⟨⟨hlo, hb⟩, htl⟩ := hm
    simp only [Memory.write]
    split
    · split
      · exact hm'
      · rename_i hia hv
        simp only [Memory.wfFrom, Bool.and_eq_true, decide_eq_true_eq, bne_iff_ne, ne_eq]
        exact ⟨⟨hi, hv⟩, ⟨by omega, by simpa using hb⟩, htl⟩
    · split
      · split
        · exact Memory.wfFrom_mono (by omega) htl
        · rename_i hv
          simp only [Memory.wfFrom, Bool.and_eq_true, decide_eq_true_eq, bne_iff_ne, ne_eq]
          exact ⟨⟨hlo, hv⟩, htl⟩
      · simp only [Memory.wfFrom, Bool.and_eq_true, decide_eq_true_eq]
        exact ⟨⟨hlo, hb⟩, Memory.write_wfFrom (by omega) v htl⟩

/-- A write keeps the canonical form. -/
theorem Memory.write_wf {m : Memory} (i : Nat) (v : Byte) (h : m.wf = true) :
    (m.write i v).wf = true :=
  Memory.write_wfFrom (Nat.zero_le i) v h

/-- Writing a byte sequence keeps the canonical form. -/
theorem Memory.writeBytes_wf :
    ∀ (bs : List Byte) {m : Memory} (i : Nat), m.wf = true → (m.writeBytes i bs).wf = true
  | [], _, _, h => h
  | b :: bs, _, i, h => Memory.writeBytes_wf bs (i + 1) (Memory.write_wf i b h)

theorem Memory.read_write_same_from {lo : Nat} (i : Nat) (v : Byte) :
    ∀ {m : Memory}, Memory.wfFrom lo m = true → (m.write i v).read i = v
  | [], _ => by
    simp only [Memory.write]
    split <;> simp_all [Memory.read]
  | (a, b) :: m, hm => by
    have hm' := hm
    simp only [Memory.wfFrom, Bool.and_eq_true, decide_eq_true_eq] at hm
    obtain ⟨⟨-, -⟩, htl⟩ := hm
    simp only [Memory.write]
    split
    · rename_i hia
      split
      · rename_i hv
        have hne : i ≠ a := by omega
        simp only [Memory.read, hne, if_false, hv]
        exact Memory.read_below (by omega) htl
      · simp [Memory.read]
    · split
      · rename_i hia
        split
        · rename_i hv
          rw [hv, hia]
          exact Memory.read_below (Nat.lt_succ_self a) htl
        · simp [Memory.read, hia]
      · rename_i hne
        simp only [Memory.read, hne, if_false]
        exact Memory.read_write_same_from i v htl

/-- A read after a write to the same index gives the byte written. -/
theorem Memory.read_write_same {m : Memory} (i : Nat) (v : Byte) (h : m.wf = true) :
    (m.write i v).read i = v :=
  Memory.read_write_same_from i v h

/-- A write leaves every other index alone. -/
theorem Memory.read_write_other {i j : Nat} (h : j ≠ i) (v : Byte) :
    ∀ (m : Memory), (m.write i v).read j = m.read j
  | [] => by
    simp only [Memory.write]
    split <;> simp [Memory.read, h]
  | (a, b) :: m => by
    simp only [Memory.write]
    split
    · split <;> simp [Memory.read, h]
    · split
      · rename_i hia
        have hja : j ≠ a := by omega
        split <;> simp [Memory.read, hja]
      · simp only [Memory.read, Memory.read_write_other h v m]

theorem Memory.read_writeBytes_below {j : Nat} :
    ∀ (bs : List Byte) (m : Memory) (i : Nat), j < i → (m.writeBytes i bs).read j = m.read j
  | [], _, _, _ => rfl
  | b :: bs, m, i, h => by
    simp only [Memory.writeBytes]
    rw [Memory.read_writeBytes_below bs _ (i + 1) (by omega),
      Memory.read_write_other (by omega)]

/-- After `bs` is written from index `i` on, an index of the range reads the byte of `bs` it holds and
every other index reads as before. -/
theorem Memory.read_writeBytes (j : Nat) :
    ∀ (bs : List Byte) (m : Memory) (i : Nat), m.wf = true →
      (m.writeBytes i bs).read j =
        if i ≤ j ∧ j < i + bs.length then bs.getD (j - i) 0 else m.read j
  | [], m, i, _ => by
    have : ¬ (i ≤ j ∧ j < i + ([] : List Byte).length) := by simp
    rw [if_neg this]
    rfl
  | b :: bs, m, i, h => by
    simp only [Memory.writeBytes]
    by_cases hji : j = i
    · subst hji
      rw [Memory.read_writeBytes_below bs _ (j + 1) (by omega), Memory.read_write_same j b h]
      simp
    · rw [Memory.read_writeBytes j bs _ (i + 1) (Memory.write_wf i b h)]
      by_cases hr : i + 1 ≤ j ∧ j < i + 1 + bs.length
      · have hr' : i ≤ j ∧ j < i + (b :: bs).length := by simp; omega
        rw [if_pos hr, if_pos hr']
        have : j - i = (j - (i + 1)) + 1 := by omega
        rw [this, List.getD_cons_succ]
      · have hr' : ¬ (i ≤ j ∧ j < i + (b :: bs).length) := by simp; omega
        rw [if_neg hr, if_neg hr', Memory.read_write_other hji]

theorem Memory.within_cons (n a : Nat) (b : Byte) (m : Memory) :
    Memory.within n ((a, b) :: m) = (decide (a < n) && m.within n) := rfl

theorem Memory.write_within {n i : Nat} (hi : i < n) (v : Byte) :
    ∀ {m : Memory}, m.within n = true → (m.write i v).within n = true
  | [], _ => by
    simp only [Memory.write]
    split <;> simp_all [Memory.within]
  | (a, b) :: m, hm => by
    have ih := @Memory.write_within n i hi v m
    simp only [Memory.within_cons, Bool.and_eq_true, decide_eq_true_eq] at hm
    simp only [Memory.write]
    split
    · split <;> simp [Memory.within_cons, hm, hi]
    · split
      · split <;> simp [Memory.within_cons, hm]
      · simp [Memory.within_cons, hm, ih hm.2]

/-- Bytes written within the buffer leave it within its bounds. -/
theorem Memory.writeBytes_within {n : Nat} :
    ∀ (bs : List Byte) {m : Memory} (i : Nat), i + bs.length ≤ n → m.within n = true →
      (m.writeBytes i bs).within n = true
  | [], _, _, _, h => h
  | b :: bs, _, i, hi, h => by
    simp only [List.length_cons] at hi
    exact Memory.writeBytes_within bs (i + 1) (by omega) (Memory.write_within (by omega) b h)

@[simp] theorem Memory.readBytes_length (m : Memory) :
    ∀ (n i : Nat), (m.readBytes i n).length = n
  | 0, _ => rfl
  | n + 1, i => by simp [Memory.readBytes, Memory.readBytes_length m n (i + 1)]

/-- Byte `j` of a range read is the byte of the buffer at that place. -/
theorem Memory.readBytes_getD (m : Memory) :
    ∀ (n i j : Nat), j < n → (m.readBytes i n).getD j 0 = m.read (i + j)
  | n + 1, i, 0, _ => by simp [Memory.readBytes]
  | n + 1, i, j + 1, h => by
    simp only [Memory.readBytes, List.getD_cons_succ]
    rw [Memory.readBytes_getD m n (i + 1) j (by omega)]
    congr 1
    omega

end Sys2Proof.Machine
end

