-- ==== Sys2Proof/Laws/PerInstr.lean ====
section
/-! SUPPORT. A law stated for every instruction as syntax: the length of its encoding. -/

namespace Sys2Proof.Laws

open Machine

/-- A well-formed instruction has from 1 to 64 words of one byte: a value of CMD (30_encoding.md R97), or
a frame of at least 5 and at most 64 bytes (R80, R81, R91). -/
def EncodingLength.Statement (i : Instr) : Prop :=
  i.wf = true → (encode i).length ∈ (if i.lane = .cmd then [1] else List.range' 5 60)

theorem EncodingLength.crc16 : EncodingLength.Statement .crc16 := by
  intro _; decide

theorem EncodingLength.encodeFrame : EncodingLength.Statement .encodeFrame := by
  intro _; decide

theorem EncodingLength.decodeFrame : EncodingLength.Statement .decodeFrame := by
  intro _; decide

theorem EncodingLength.readFrame : EncodingLength.Statement .readFrame := by
  intro _; decide

theorem EncodingLength.triggerCapture : EncodingLength.Statement .triggerCapture := by
  intro _; decide

theorem EncodingLength.readStatus : EncodingLength.Statement .readStatus := by
  intro _; decide

theorem EncodingLength.readData : EncodingLength.Statement .readData := by
  intro _; decide

theorem EncodingLength.resetTrigger : EncodingLength.Statement .resetTrigger := by
  intro _; decide

theorem EncodingLength.updateBoard : EncodingLength.Statement .updateBoard := by
  intro _; decide

theorem EncodingLength.capturePlate : EncodingLength.Statement .capturePlate := by
  intro _; decide

theorem EncodingLength.rhrRequest (a : Byte) (start qty : Half) (t : Tag) :
    EncodingLength.Statement (.rhrRequest a start qty t) := by
  intro _
  simp [encode, Instr.lane]

theorem EncodingLength.rhrResponse (a : Byte) (data : List Byte) :
    EncodingLength.Statement (.rhrResponse a data) := by
  intro h
  simp [Instr.wf, Config.rhrOverhead, Config.maxFrame, encode, Instr.lane, responseFrame_length,
    rhrResponsePayload] at h ⊢
  omega

theorem EncodingLength.wmrRequest (a : Byte) (start : Half) (values : List Half) (t : Tag) :
    EncodingLength.Statement (.wmrRequest a start values t) := by
  intro h
  simp [Instr.wf, Config.maxPayload, encode, Instr.lane] at h ⊢
  omega

theorem EncodingLength.wmrAck (a p0 p1 p2 p3 : Byte) : EncodingLength.Statement (.wmrAck a p0 p1 p2 p3) := by
  intro _
  simp [encode, Instr.lane, responseFrame]

theorem EncodingLength.rhrException (a code : Byte) (rest : List Byte) :
    EncodingLength.Statement (.rhrException a code rest) := by
  intro h
  simp [Instr.wf, Config.minFrame, Config.maxFrame, encode, Instr.lane, responseFrame_length] at h ⊢
  omega

theorem EncodingLength.wmrException (a code : Byte) (rest : List Byte) :
    EncodingLength.Statement (.wmrException a code rest) := by
  intro h
  simp [Instr.wf, Config.minFrame, Config.maxFrame, encode, Instr.lane, responseFrame_length] at h ⊢
  omega

end Sys2Proof.Laws
end

