-- ==== Sys2Proof/Laws/Step.lean ====
section
/-! SUPPORT. What a step can do, said once. -/

namespace Sys2Proof.Machine

/-- What the decoder accepts in the command lane is a command. -/
theorem decode_cmd_lane {b : List Byte} {i : Instr} (h : decode .cmd b = .ok i) : i.lane = .cmd := by
  unfold decode at h
  split at h <;> try contradiction
  · unfold decodeOpcode at h
    repeat' split at h
    all_goals cases h
    all_goals rfl

/-- Everything the engine does with the command in progress. -/
theorem runCommand_cases {s t : State} (h : runCommand s = .next t) :
    (s.ctl.midway = true ∧ t = captureRest s) ∨
    (s.ctl.midway = false ∧ ∃ i, decode .cmd [s.ctl.curOp] = .ok i ∧ i.lane = .cmd ∧
      exec i s = .next t) ∨
    (s.ctl.midway = false ∧ t = illegalCommand s) := by
  unfold runCommand at h
  cases hm : s.ctl.midway
  · simp only [hm, Bool.false_eq_true, if_false] at h
    split at h
    · rename_i i hd
      exact .inr (.inl ⟨rfl, i, hd, decode_cmd_lane hd, h⟩)
    · cases h
      exact .inr (.inr ⟨rfl, rfl⟩)
  · simp only [hm, if_true] at h
    cases h
    exact .inl ⟨rfl, rfl⟩

/-- Everything a step can do, by the move it takes; `s0` is the state without that move. -/
theorem step_cases {s t : State} (h : step s = .next t) :
    ∃ moves, let s0 : State := { s with inbox := moves }
      t = s0 ∨
      (s.ctl.busy = false ∧ ∃ op, t = s0.start op) ∨
      (s.ctl.busy = false ∧ ∃ reg v o, s.ops.write reg v = some o ∧ t = { s0 with ops := o }) ∨
      (∃ d e, e.tx = s.env.tx ∧ e.rx = s.env.rx ∧ t = { s0 with hostData := d, env := e }) ∨
      (∃ e, t = { s0 with env := e }.warmReset) ∨
      (s.ctl.busy = true ∧ s.ctl.midway = true ∧ (t = orchStep s0 ∨ t = captureRest s0)) ∨
      (s.ctl.busy = true ∧ s.ctl.midway = false ∧ t = captureStart s0) ∨
      (s.ctl.busy = true ∧ s.ctl.midway = false ∧ ∃ i, i.lane = .cmd ∧ exec i s0 = .next t) ∨
      (s.ctl.busy = true ∧ s.ctl.midway = false ∧ t = illegalCommand s0) ∨
      (∃ b i, decode .response b = .ok i ∧ exec i s0 = .next t) ∨
      (∃ b, t = s0.deliver b) ∨
      (s.ctl.busy = false ∧ ∃ b i, decode .request b = .ok i ∧ exec i s0 = .next t) := by
  have run : ∀ moves, engineRun { s with inbox := moves } = .next t →
      (s.ctl.busy = false ∧ t = { s with inbox := moves }) ∨
      (s.ctl.busy = true ∧ runCommand { s with inbox := moves } = .next t) := by
    intro moves h
    unfold engineRun at h
    cases hb : s.ctl.busy
    · simp only [hb, Bool.false_eq_true, if_false] at h
      cases h
      exact .inl ⟨rfl, rfl⟩
    · simp only [hb, if_true] at h
      exact .inr ⟨rfl, h⟩
  unfold step advance at h
  cases hin : s.inbox with
  | nil =>
    rw [hin] at h
    have hs : ({ s with inbox := [] } : State) = s := by rw [← hin]
    refine ⟨[], ?_⟩
    rcases run [] (by rw [hs]; exact h) with ⟨-, ht⟩ | ⟨hb, hr⟩
    · exact .inl ht
    · rcases runCommand_cases hr with ⟨hm, ht⟩ | ⟨hm, i, -, hl, hx⟩ | ⟨hm, ht⟩
      · exact .inr (.inr (.inr (.inr (.inr (.inl ⟨hb, hm, .inr ht⟩)))))
      · exact .inr (.inr (.inr (.inr (.inr (.inr (.inr (.inl ⟨hb, hm, i, hl, hx⟩)))))))
      · exact .inr (.inr (.inr (.inr (.inr (.inr (.inr (.inr (.inl ⟨hb, hm, ht⟩))))))))
  | cons m rest =>
    rw [hin] at h
    refine ⟨rest, ?_⟩
    cases m with
    | write reg v =>
      simp only [applyMove, hostWrite] at h
      cases hb : s.ctl.busy
      · simp only [hb, Bool.false_eq_true, if_false] at h
        by_cases h0 : reg = 0
        · simp only [h0, if_true] at h
          cases h
          exact .inr (.inl ⟨rfl, _, rfl⟩)
        · simp only [h0, if_false] at h
          split at h
          · rename_i o ho
            cases h
            exact .inr (.inr (.inl ⟨rfl, reg, v, o, ho, rfl⟩))
          · split at h <;> cases h
            exact .inl rfl
      · simp only [hb, if_true] at h
        cases h
        exact .inl rfl
    | read reg =>
      simp only [applyMove, hostRead] at h
      split at h
      · cases h
      · split at h <;> cases h
        · exact .inr (.inr (.inr (.inl ⟨_, { s.env with drawn := s.env.drawn + 1 }, rfl, rfl, rfl⟩)))
        · exact .inr (.inr (.inr (.inl ⟨_, s.env, rfl, rfl, rfl⟩)))
    | reset =>
      simp only [applyMove] at h
      cases h
      exact .inr (.inr (.inr (.inr (.inl ⟨s.env, rfl⟩))))
    | resetAfter k =>
      simp only [applyMove, abandonAfter] at h
      split at h <;> cases h
      exact .inr (.inr (.inr (.inr (.inl ⟨_, rfl⟩))))
    | engine =>
      simp only [applyMove, engineTurn] at h
      cases hb : s.ctl.busy
      · simp only [hb, Bool.false_eq_true, if_false] at h
        cases h
        exact .inl rfl
      · simp only [hb, if_true] at h
        cases hm : s.ctl.midway
        · simp only [hm, Bool.false_eq_true, if_false] at h
          split at h
          · cases h
            exact .inr (.inr (.inr (.inr (.inr (.inr (.inl ⟨rfl, rfl, rfl⟩))))))
          · rcases runCommand_cases h with ⟨hm', -⟩ | ⟨-, i, -, hl, hx⟩ | ⟨-, ht⟩
            · simp [hm] at hm'
            · exact .inr (.inr (.inr (.inr (.inr (.inr (.inr (.inl ⟨rfl, rfl, i, hl, hx⟩)))))))
            · exact .inr (.inr (.inr (.inr (.inr (.inr (.inr (.inr (.inl ⟨rfl, rfl, ht⟩))))))))
        · simp only [hm, if_true] at h
          cases h
          exact .inr (.inr (.inr (.inr (.inr (.inl ⟨rfl, rfl, .inl rfl⟩)))))
    | arrive b =>
      simp only [applyMove, arriveBytes] at h
      split at h
      · rename_i i hd
        exact .inr (.inr (.inr (.inr (.inr (.inr (.inr (.inr (.inr (.inl ⟨b, i, hd, h⟩)))))))))
      · cases h
        exact .inr (.inr (.inr (.inr (.inr (.inr (.inr (.inr (.inr (.inr (.inl ⟨b, rfl⟩))))))))))
    | send b =>
      simp only [applyMove, sendBytes] at h
      cases hb : s.ctl.busy
      · simp only [hb, Bool.false_eq_true, if_false] at h
        split at h
        · rename_i i hd
          exact .inr (.inr (.inr (.inr (.inr (.inr (.inr (.inr (.inr (.inr (.inr
            ⟨rfl, b, i, hd, h⟩))))))))))
        · cases h
      · simp only [hb, if_true] at h
        cases h
        exact .inl rfl

end Sys2Proof.Machine
end

