-- ==== Sys2Proof/Tests/Slice0.lean ====
section
/-! SUPPORT. The model's own tests. Expected values come from spec/95_test_vectors.md (the vector is
named) or are worked out by hand from the rule named. After them, for every obligation that has
hypotheses, a concrete state and operands that meet them all, `witness_<its name>`. -/

namespace Sys2Proof.Tests

open Machine

/- One theorem after the other: each is small, and a thread for each costs more than it brings. -/
set_option Elab.async false

/-! ## Frames and states -/

/-- "1234" (95_test_vectors.md, notation). -/
def tag1234 : Tag := ⟨0x31, 0x32, 0x33, 0x34⟩

/-- The frames of the table at the head of 95_test_vectors.md. -/
def trig : List Byte :=
  [0x11, 0x10, 0x00, 0x01, 0x00, 0x01, 0x02, 0x00, 0x01, 0x31, 0x32, 0x33, 0x34, 0xCA, 0x18]
def rst : List Byte :=
  [0x11, 0x10, 0x00, 0x01, 0x00, 0x01, 0x02, 0x00, 0x00, 0x31, 0x32, 0x33, 0x34, 0xF7, 0xD8]
def stq : List Byte := [0x11, 0x03, 0x00, 0x00, 0x00, 0x01, 0x31, 0x32, 0x33, 0x34, 0xB3, 0x73]
def daq : List Byte := [0x11, 0x03, 0x00, 0x00, 0x00, 0x08, 0x31, 0x32, 0x33, 0x34, 0x6F, 0x72]
def ack : List Byte := [0x11, 0x10, 0x00, 0x01, 0x00, 0x01, 0x52, 0x99]
def st0 : List Byte := [0x11, 0x03, 0x02, 0x00, 0x00, 0x79, 0x87]
def st1 : List Byte := [0x11, 0x03, 0x02, 0x00, 0x01, 0xB8, 0x47]
def st2 : List Byte := [0x11, 0x03, 0x02, 0x00, 0x02, 0xF8, 0x46]
def st3 : List Byte := [0x11, 0x03, 0x02, 0x00, 0x03, 0x39, 0x86]
def st7 : List Byte := [0x11, 0x03, 0x02, 0x00, 0x07, 0x38, 0x45]
def dat : List Byte :=
  [0x11, 0x03, 0x10, 0x00, 0x02, 0x00, 0x00, 0x41, 0x42, 0x43, 0x31, 0x32, 0x33, 0x34, 0x58, 0x00,
    0x5F, 0x00, 0x00, 0x3F, 0x31]
def brdq : List Byte :=
  [0x20, 0x10, 0x00, 0x00, 0x00, 0x0D, 0x1A, 0x00, 0x01, 0x00, 0x02, 0x00, 0x03, 0x00, 0x04, 0x00,
    0x05, 0x00, 0x06, 0x00, 0x07, 0x00, 0x08, 0x00, 0x09, 0x00, 0x0A, 0x00, 0x0B, 0x00, 0x0C, 0x80,
    0x01, 0x31, 0x32, 0x33, 0x34, 0x82, 0x7C]
def back : List Byte := [0x20, 0x10, 0x00, 0x00, 0x00, 0x0D, 0x07, 0x7D]
/-- An exception to a write, code 4 (V10), and one of the board, code 2 (F5). -/
def exc4 : List Byte := [0x11, 0x90, 0x04, 0x4C, 0x06]
def bexc : List Byte := [0x20, 0x90, 0x02, 0x9D, 0xCB]

/-- The board of P5: counters 1 to 12, flags 0x8001. -/
def board12 : Vector Half 13 := #v[1, 2, 3, 4, 5, 6, 7, 8, 9, 10, 11, 12, 0x8001]

/-- The reading in `dat` (H19). -/
def readingAbc : Reading :=
  { status := 2, plate := #v[0x41, 0x42, 0x43, 0x31, 0x32, 0x33, 0x34, 0x58], confidence := 0x5F
    errorCode := 0 }

/-- The operands of the vectors: address 0x11, tag "1234". -/
def host : Operands :=
  { Operands.zero with addr := 0x11, tag := tag1234, maxRetries := 3, timeout := 1000, board := board12 }

/-- After reset, with operands and the environment's coming answers. -/
def bench (o : Operands) (tx : List Bool) (rx : List (List Byte)) : State :=
  { State.reset with ops := o, env := { tx := tx, rx := rx, drawn := 0 } }

/-- DBUF holding bytes from index 0 on, A_LEN their number. -/
def loaded (b : List Byte) : Operands :=
  { host with len := BitVec.ofNat 8 b.length, dbuf := Memory.empty.writeBytes 0 b }

/-- The next state, if there is one; else `s`. -/
def nextOf (s : State) (r : Host.Outcome State Fault Refusal) : State :=
  match r with
  | .next t => t
  | .fault _ => s
  | .refused _ => s

/-- What an instruction leaves. -/
def after (i : Instr) (s : State) : State := nextOf s (exec i s)

/-- A step, with the given moves waiting. -/
def stepWith (moves : List Move) (s : State) : State :=
  nextOf s (step { s with inbox := moves })

/-- CAPTURE_PLATE in progress in state `o`, a turn of the engine waiting. -/
def midCapture (o : Orch) (s : State) : State :=
  { s with
    ctl := { s.ctl with busy := true, curOp := 0x20, midway := true, orch := o }
    res := { s.res with orch := o.code }
    inbox := [.engine] }

/-- A command in progress that has not begun. -/
def started (op : Byte) (s : State) : State := s.begin op

/-! ## WellFormed refuses what has no encoding (30_encoding.md R91) -/

theorem test_wf_response_too_long : Instr.wf (.rhrResponse 0x11 (List.replicate 60 0)) = false := by
  decide
theorem test_wf_write_too_long : Instr.wf (.wmrRequest 0x11 0 (List.replicate 26 0) tag1234) = false := by
  decide
theorem test_wf_rhr_exception_too_long :
    Instr.wf (.rhrException 0x11 2 (List.replicate 60 0)) = false := by decide
theorem test_wf_wmr_exception_too_long :
    Instr.wf (.wmrException 0x11 2 (List.replicate 60 0)) = false := by decide
theorem test_wf_at_the_bound :
    Instr.wf (.rhrResponse 0x11 (List.replicate 59 0)) = true ∧
    Instr.wf (.wmrRequest 0x11 0 (List.replicate 25 0) tag1234) = true ∧
    Instr.wf (.rhrException 0x11 2 (List.replicate 59 0)) = true ∧
    Instr.wf (.wmrException 0x11 2 (List.replicate 59 0)) = true := by decide

/-! ## Decoding words written out from the encodings (30_encoding.md R97; the frames of
95_test_vectors.md) -/

theorem test_decode_crc16 : decode .cmd [0x01] = .ok .crc16 := by decide
theorem test_decode_encode : decode .cmd [0x02] = .ok .encodeFrame := by decide
theorem test_decode_decode : decode .cmd [0x03] = .ok .decodeFrame := by decide
theorem test_decode_read_frame : decode .cmd [0x04] = .ok .readFrame := by decide
theorem test_decode_trigger_capture : decode .cmd [0x10] = .ok .triggerCapture := by decide
theorem test_decode_read_status : decode .cmd [0x11] = .ok .readStatus := by decide
theorem test_decode_read_data : decode .cmd [0x12] = .ok .readData := by decide
theorem test_decode_reset_trigger : decode .cmd [0x13] = .ok .resetTrigger := by decide
theorem test_decode_update_board : decode .cmd [0x14] = .ok .updateBoard := by decide
theorem test_decode_capture_plate : decode .cmd [0x20] = .ok .capturePlate := by decide
/-- The opcodes of P8. -/
theorem test_decode_illegal : decode .cmd [0x05] = .error (.illegalOpcode 0x05) ∧
    decode .cmd [0x00] = .error (.illegalOpcode 0x00) ∧ decode .cmd [] = .error .notOneByte := by decide
theorem test_decode_rhr_request : decode .request daq = .ok (.rhrRequest 0x11 0 8 tag1234) := by
  decide +kernel
theorem test_decode_rhr_response : decode .response st7 = .ok (.rhrResponse 0x11 [0, 7]) := by
  decide +kernel
theorem test_decode_wmr_request :
    decode .request brdq = .ok (.wmrRequest 0x20 0 board12.toList tag1234) := by decide +kernel
theorem test_decode_wmr_ack : decode .response ack = .ok (.wmrAck 0x11 0 1 0 1) := by decide +kernel
/-- V11. -/
theorem test_decode_rhr_exception :
    decode .response [0x11, 0x83, 0x02, 0xC1, 0x34] = .ok (.rhrException 0x11 2 []) := by decide +kernel
/-- V14. -/
theorem test_decode_wmr_exception :
    decode .response [0x11, 0x90, 0x04, 0xAA, 0xBB, 0x8A, 0x11] =
      .ok (.wmrException 0x11 4 [0xAA, 0xBB]) := by decide +kernel
/-- V6 with one checksum bit wrong; a request is no response; a function of no row. -/
theorem test_decode_rejects_by_name :
    decode .response [0x11, 0x03, 0x02, 0x00, 0x01, 0xB8, 0x46] = .error .badChecksum ∧
    decode .response [0x11, 0x03] = .error .tooShort ∧
    decode .response (List.replicate 65 0) = .error .tooLong ∧
    decode .response stq = .error .badLayout ∧
    decode .request (requestFrame 0x11 0x06 [0, 0, 0, 0] tag1234) = .error (.unknownFunction 0x06) := by
  decide +kernel

/-- The words of the table as the host numbers them (log 7). -/
theorem test_table_words :
    decodeTableWord 8 0x20 = some .capturePlate ∧ decodeTableWord 8 0x03 = some .decodeFrame ∧
    decodeTableWord 8 0x10 = some .triggerCapture ∧
    decodeTableWord 8 0x83 = some (.rhrException 0 0 []) ∧
    decodeTableWord 8 0x90 = some (.wmrException 0 0 []) ∧ decodeTableWord 8 0x05 = none ∧
    decodeTableWord 56 0x47B80100020311 = some (.rhrResponse 0x11 [0, 1]) ∧
    decodeTableWord 96 0x726F34333231080000000311 = some (.rhrRequest 0x11 0 8 tag1234) := by
  decide +kernel

/-- A word placed where the step finds its next instruction is the one it runs. -/
theorem test_fetch_runs_it :
    nextOf State.reset (step (State.reset.withFetchWord 8 0x01)) =
      after .crc16 (State.reset.start 0x01) ∧
    nextOf State.reset (step (State.reset.withFetchWord 8 0x90)) =
      after (.wmrException 0 0 []) State.reset := by decide +kernel

/-! ## One step of each instruction -/

/-- K11, and the range of length 0 at the end of the buffer. -/
theorem test_crc16 :
    (after .crc16 (bench (loaded [0x01, 0x03, 0x00, 0x00, 0x00, 0x01]) [] [])).res.crc = 0x0A84 ∧
    (after .crc16 (bench { host with off := 64, len := 0 } [] [])).res.crc = 0xFFFF := by decide +kernel
/-- Section 2.1: the sum of offset and length is not wrapped to 8 bits. -/
theorem test_crc16_misuse :
    (after .crc16 (bench { host with off := 255, len := 255 } [] [])).res =
      { Results.zero with err := 0x09 } := by decide +kernel

/-- E2. -/
theorem test_encode :
    let t := after .encodeFrame (bench { loaded [0, 1, 0, 1, 2, 0, 1] with func := 0x10 } [] [])
    t.res.len = 15 ∧ t.res.obuf.readBytes 0 16 = trig ++ [0] ∧ t.work.txlen = 15 := by decide +kernel
/-- E7: the longest request, 64 bytes with checksum `51 55`. -/
theorem test_encode_longest :
    let p := (List.range 56).map (BitVec.ofNat 8)
    let t := after .encodeFrame (bench { loaded p with addr := 0x20, func := 0x10 } [] [])
    t.res.len = 64 ∧ t.res.obuf.readBytes 56 8 = [0x36, 0x37, 0x31, 0x32, 0x33, 0x34, 0x51, 0x55] := by
  decide +kernel

/-- V5 as a command. -/
theorem test_decode_command :
    let t := after .decodeFrame (bench { loaded st1 with func := 0x03 } [] [])
    t.res.err = 0 ∧ t.res.len = 3 ∧ t.res.obuf.readBytes 0 4 = [2, 0, 1, 0] := by decide +kernel
/-- V8 to V11, V15. -/
theorem test_decode_verdicts :
    decodeAndVerify [0x12, 0x90, 0x04, 0xBC, 0x07] 0x11 0x10 = .error .checksumMismatch ∧
    decodeAndVerify [0x12, 0x90, 0x04, 0xBC, 0x06] 0x11 0x10 = .error .addressMismatch ∧
    decodeAndVerify exc4 0x11 0x10 = .error (.deviceException 4) ∧
    decodeAndVerify [0x11, 0x83, 0x04, 0x41, 0x36] 0x11 0x10 = .error .functionMismatch ∧
    decodeAndVerify exc4 0x11 0x90 = .ok [0x04] := by decide +kernel

/-- F3. -/
theorem test_read_frame_split :
    let t := after .readFrame (bench { host with len := 64 } [] [dat.take 3, [], dat.drop 3])
    t.res.len = 21 ∧ t.res.obuf.readBytes 0 21 = dat ∧
    t.trace = [.rx 64 .first (dat.take 3), .rx 61 .next [], .rx 61 .next (dat.drop 3)] := by
  decide +kernel
/-- F8: capacity stop; what did not fit stays in the stream. -/
theorem test_read_frame_capacity :
    let t := after .readFrame (bench { host with len := 8 } [] [dat])
    t.res.len = 8 ∧ t.res.obuf.readBytes 0 8 = dat.take 8 ∧ t.env.rx = [dat.drop 8] := by decide +kernel

/-- H1. -/
theorem test_trigger_capture :
    let t := after .triggerCapture (bench host [true] [ack])
    t.res = Results.zero ∧ t.trace = [.tx trig true, .sleep 50, .rx 64 .first ack] := by decide +kernel
/-- The command form of H4, its exception frame as in V10. -/
theorem test_trigger_capture_exception :
    let t := after .triggerCapture (bench host [true] [exc4, [], [], []])
    t.res = { Results.zero with err := 0x04, exc := 0x04 } ∧ t.trace.length = 6 := by decide +kernel

/-- H14: an unnamed status value passes through. -/
theorem test_read_status :
    let t := after .readStatus (bench host [true] [st7])
    t.res = { Results.zero with status := 7 } ∧ t.trace = [.tx stq true, .sleep 50, .rx 64 .first st7] := by
  decide +kernel
/-- 43_device_handlers.md R162: a failed write is reported over a good answer. -/
theorem test_read_status_write_failed :
    (after .readStatus (bench host [false] [st1])).res = { Results.zero with err := 0x08 } := by
  decide +kernel

/-- H19. -/
theorem test_read_data :
    let t := after .readData (bench host [true] [dat])
    t.res = { Results.zero with
      reading := readingAbc } ∧
    t.stat = 0x06 ∧ t.trace = [.tx daq true, .sleep 50, .rx 64 .first dat] := by decide +kernel
/-- H12: a good frame with 4 of the 16 data bytes. -/
theorem test_read_data_short :
    let short : List Byte := [0x11, 0x03, 0x10, 0x00, 0x02, 0x00, 0x00, 0x7A, 0x31]
    let t := after .readData (bench host [true] [short, [], [], []])
    t.res = { Results.zero with err := 0x06 } ∧ t.stat = 0x02 := by decide +kernel

/-- H13. -/
theorem test_reset_trigger :
    let t := after .resetTrigger (bench host [true] [ack])
    t.res.err = 0 ∧ t.trace = [.tx rst true, .sleep 50, .rx 64 .first ack] := by decide +kernel
/-- P7 step 3: nothing comes. -/
theorem test_reset_trigger_timeout :
    (after .resetTrigger (bench host [true] [[]])).res = { Results.zero with err := 0x07 } := by
  decide +kernel

/-- P5 step 1. -/
theorem test_update_board :
    let t := after .updateBoard (bench host [true] [back])
    t.res.err = 0 ∧ t.trace = [.tx brdq true, .sleep 50, .rx 64 .first back] := by decide +kernel
/-- P5 step 2. -/
theorem test_update_board_rejected :
    (after .updateBoard (bench host [true] [bexc, [], [], []])).res =
      { Results.zero with err := 0x04, exc := 0x02 } := by decide +kernel

/-- P3. -/
theorem test_capture_plate_succeeds :
    let t := after .capturePlate (bench host (List.replicate 6 true) [ack, st1, st1, st2, dat, ack])
    t.res = { Results.zero with
      orch := 3
      reading := readingAbc } ∧
    t.stat = 0x06 ∧ t.trace.length = 20 ∧ totalSleep t.trace = 500 ∧ t.work.pollCount = 3 ∧
    t.work.elapsed = 200 := by decide +kernel
/-- P6. -/
theorem test_capture_plate_fails :
    let t := after .capturePlate (bench { host with maxRetries := 2, timeout := 250 }
      (List.replicate 5 true) [ack, st3, ack, st0, []])
    t.res = { Results.zero with err := 0x0A, orch := 4, attempt := 2 } ∧ t.stat = 0x02 ∧
    t.trace.length = 18 ∧ totalSleep t.trace = 650 := by decide +kernel

/-- The exchange of `stq` (43_device_handlers.md R160), with no command in progress (log 6). -/
theorem test_rhr_request :
    let t := after (.rhrRequest 0x11 0 1 tag1234) (bench host [true] [st1])
    t.trace = [.tx stq true, .sleep 50, .rx 64 .first st1] ∧ t.res = Results.zero ∧ t.env.rx = [] := by
  decide +kernel
/-- The exchange of `trig`. -/
theorem test_wmr_request :
    let t := after (.wmrRequest 0x11 1 [1] tag1234) (bench host [true] [ack])
    t.trace = [.tx trig true, .sleep 50, .rx 64 .first ack] ∧ t.work.rxlen = 8 := by decide +kernel
/-- The frames arrive behind what is in the stream (log 6). -/
theorem test_rhr_response :
    (after (.rhrResponse 0x11 [0, 1]) (bench host [] [ack])).env.rx = [ack, st1] := by decide +kernel
theorem test_wmr_ack : (after (.wmrAck 0x11 0 1 0 1) (bench host [] [])).env.rx = [ack] := by
  decide +kernel
theorem test_rhr_exception :
    (after (.rhrException 0x11 2 []) (bench host [] [])).env.rx = [[0x11, 0x83, 0x02, 0xC1, 0x34]] := by
  decide +kernel
theorem test_wmr_exception : (after (.wmrException 0x11 4 []) (bench host [] [])).env.rx = [exc4] := by
  decide +kernel

/-! ## The host's side -/

/-- A write of CMD starts, and STAT reads busy (10_state.md R31, R32). -/
theorem test_command_write :
    (stepWith [.write 0 0x01] (bench host [] [])).stat = 0x01 ∧
    (stepWith [.write 0 0x01] (bench host [] [])).ctl.curOp = 0x01 := by decide
/-- Register 70 is BOARD[6], register 131 DBUF[3] (10_state.md R20). -/
theorem test_operand_writes :
    (stepWith [.write 70 0x12345] (bench host [] [])).ops.board.toList.getD 6 0 = 0x2345 ∧
    (stepWith [.write 131 0x1AB] (bench host [] [])).ops.dbuf = [(3, 0xAB)] := by decide
/-- Register 33 is RD_PLATE[1]; register 22 is none. -/
theorem test_host_read :
    (stepWith [.read 33] (after .readData (bench host [true] [dat]))).hostData = 0x42 ∧
    step { bench host [] [] with inbox := [.read 22] } = .fault (.unmappedRegister 22) := by
  constructor
  · decide +kernel
  · rfl
/-- P8 step 1. -/
theorem test_illegal_opcode :
    (stepWith [] (stepWith [.write 0 0x05] (bench host [] []))).res = { Results.zero with err := 0x09 } := by
  decide
/-- A reset after the write and the guard delay of a command (70_reset_and_hazards.md R242). -/
theorem test_reset_during_command :
    let t := stepWith [.resetAfter 2] (started 0x11 (bench host [true] [st1]))
    t.ctl = Control.rest ∧ t.res = Results.zero ∧ t.env.tx = [] ∧ t.env.rx = [st1] := by decide +kernel

/-! ## Witnesses: for every obligation with hypotheses, values that meet them all -/

theorem witness_DecodeOfEncodeIsTheInstruction :
    Instr.wf .capturePlate = true ∧ Instr.wf (.rhrRequest 0xFF 0xFFFF 0xFFFF tag1234) = true ∧
    Instr.wf (.wmrRequest 0xFF 0xFFFF (List.replicate 25 0xFFFF) tag1234) = true ∧
    Instr.wf (.rhrResponse 0xFF (List.replicate 59 0xFF)) = true ∧
    Instr.wf (.wmrException 0xFF 0xFF (List.replicate 59 0xFF)) = true := by decide

theorem witness_EncodeOfDecodedIsTheBytes :
    decode .request brdq = .ok (.wmrRequest 0x20 0 board12.toList tag1234) ∧
    decode .response dat = .ok (.rhrResponse 0x11 ((dat.drop 3).take 16)) ∧
    decode .cmd [0x20] = .ok .capturePlate := by decide +kernel

theorem witness_StepRunsTheDecodedInstruction :
    (let s := started 0x20 (bench host [] [])
     s.inbox = [] ∧ s.ctl.busy = true ∧ s.ctl.midway = false ∧
       decode .cmd [s.ctl.curOp] = .ok .capturePlate) ∧
    (let s := { bench host [] [] with inbox := [.arrive ack, .engine] }
     s.inbox = .arrive ack :: [.engine] ∧ decode .response ack = .ok (.wmrAck 0x11 0 1 0 1)) ∧
    (let s := { bench host [] [] with inbox := [.send daq] }
     s.inbox = .send daq :: [] ∧ s.ctl.busy = false ∧
       decode .request daq = .ok (.rhrRequest 0x11 0 8 tag1234)) := by decide +kernel

theorem witness_Crc16ComputesTheRange :
    (let s := bench { host with off := 64, len := 0 } [] []
     s.ops.off.toNat + s.ops.len.toNat ≤ 64) ∧
    (let s := bench { host with off := 1, len := 63 } [] []
     s.ops.off.toNat + s.ops.len.toNat ≤ 64) := by decide

theorem witness_EncodeBuildsTheFrame :
    (let s := bench { host with len := 56 } [] []
     s.work.txbuf.wf = true ∧ s.ops.len.toNat ≤ 56) ∧
    (let s := bench { host with len := 57 } [] []
     s.work.txbuf.wf = true ∧ 56 < s.ops.len.toNat) := by decide

theorem witness_DecodeOfRequestFrameReturnsPayloadAndTag :
    (List.replicate 56 (0xFF : Byte)).length ≤ 56 ∧ ([] : List Byte).length ≤ 56 := by decide

theorem witness_FlippedChecksumBitIsDetected :
    (List.replicate 56 (0xFF : Byte)).length ≤ 56 ∧ 7 < 8 ∧
    (let fr := requestFrame 0x11 0x03 (List.replicate 56 0xFF) tag1234
     (62 = fr.length - 2 ∨ 62 = fr.length - 1) ∧ (63 = fr.length - 2 ∨ 63 = fr.length - 1)) := by
  decide +kernel

theorem witness_ExceptionFrameYieldsItsCode :
    (0x7F : Byte).getLsbD 7 = false ∧ (0x00 : Byte).getLsbD 7 = false := by decide

/-- One frame for each clause: of 4 bytes; V6; V9; V5 (5 bytes: V3); V11; V12. -/
theorem witness_DecoderTestsInTheListedOrder :
    let good := fun (b : List Byte) =>
      byteAt b (b.length - 2) = (crc16 (b.take (b.length - 2))).setWidth 8 ∧
      byteAt b (b.length - 1) = (crc16 (b.take (b.length - 2)) >>> 8).setWidth 8
    let bad : List Byte := [0x11, 0x03, 0x02, 0x00, 0x01, 0xB8, 0x46]
    let v3 : List Byte := [0x11, 0x10, 0x07, 0x6D, 0xC7]
    let v9 : List Byte := [0x12, 0x90, 0x04, 0xBC, 0x06]
    let v12 : List Byte := [0x11, 0x83, 0x04, 0x41, 0x36]
    (st1.take 4).length < 5 ∧ (5 ≤ bad.length ∧ ¬ good bad) ∧
    (5 ≤ v9.length ∧ good v9 ∧ byteAt v9 0 ≠ 0x11) ∧
    (5 ≤ v3.length ∧ good v3 ∧ byteAt v3 0 = 0x11 ∧ byteAt v3 1 = 0x10) ∧
    (5 ≤ exc4.length ∧ good exc4 ∧ byteAt exc4 0 = 0x11 ∧ byteAt exc4 1 ≠ 0x10 ∧
      byteAt exc4 1 = 0x10 ||| 0x80) ∧
    (5 ≤ v12.length ∧ good v12 ∧ byteAt v12 0 = 0x11 ∧ byteAt v12 1 ≠ 0x10 ∧
      byteAt v12 1 ≠ 0x10 ||| 0x80) := by decide +kernel

theorem witness_DecodeReportsTheVerdict :
    (let s := bench { loaded st1 with func := 0x03 } [] []
     s.ops.len.toNat ≤ 64 ∧
       decodeAndVerify (s.ops.dbuf.readBytes 0 s.ops.len.toNat) s.ops.addr s.ops.func = .ok [2, 0, 1]) ∧
    (let s := bench { host with len := 64 } [] []
     s.ops.len.toNat ≤ 64 ∧
       decodeAndVerify (s.ops.dbuf.readBytes 0 s.ops.len.toNat) s.ops.addr s.ops.func =
         .error .checksumMismatch) ∧
    64 < (bench { host with len := 65 } [] []).ops.len.toNat := by decide +kernel

theorem witness_ErrorCodesAreTheTable : (Err.deviceException 4).exc ≠ 0 := by decide

theorem witness_IllegalCommandsAreCallerMisuse :
    (let s := started 0x05 (bench host [] [])
     s.inbox = [] ∧ s.ctl.busy = true ∧ s.ctl.midway = false ∧
       s.ctl.curOp ∉ ([0x01, 0x02, 0x03, 0x04, 0x10, 0x11, 0x12, 0x13, 0x14, 0x20] : List Byte)) ∧
    (let s := bench { host with off := 1, len := 64 } [] []
     64 < s.ops.off.toNat + s.ops.len.toNat) ∧
    56 < (bench { host with len := 57 } [] []).ops.len.toNat ∧
    64 < (bench { host with len := 65 } [] []).ops.len.toNat ∧
    ((bench { host with len := 0 } [] []).ops.len = 0 ∨
      64 < (bench { host with len := 0 } [] []).ops.len.toNat) ∧
    ((bench { host with len := 65 } [] []).ops.len = 0 ∨
      64 < (bench { host with len := 65 } [] []).ops.len.toNat) ∧
    25 < (bench { host with maxRetries := 26 } [] []).ops.maxRetries.toNat := by decide

theorem witness_ReadFrameBounds : 1 ≤ 1 ∧ 1 ≤ 64 := by decide

theorem witness_ReadFrameCommandReturnsWhatArrived :
    (let s := bench { host with len := 1 } [] []
     1 ≤ s.ops.len.toNat ∧ s.ops.len.toNat ≤ 64 ∧ s.work.rxbuf.wf = true) ∧
    (let s := bench { host with len := 64 } [] []
     1 ≤ s.ops.len.toNat ∧ s.ops.len.toNat ≤ 64 ∧ s.work.rxbuf.wf = true) := by decide

/-- F7, with a fourth chunk left in the stream; `max_len` the frame's length. -/
theorem witness_SplittingDoesNotMatter :
    let first : List Byte := [0x11]
    let pieces : List (Nat × List Byte) := [(2, [0x03]), (2, [0x02, 0x00, 0x07, 0x38, 0x45])]
    let F := first ++ pieces.flatMap (·.2)
    let s := bench host [] [[0x11], [], [], [0x03], [], [], [0x02, 0x00, 0x07, 0x38, 0x45], ack]
    byteAt F 1 = 0x03 ∧ F.length = (byteAt F 2).toNat + 5 ∧ F.length ≤ 7 ∧ 7 ≤ 64 ∧ first ≠ [] ∧
    (∀ q ∈ pieces, q.1 ≤ 2 ∧ q.2 ≠ []) ∧
    s.env.rx = first :: (pieces.flatMap fun q => List.replicate q.1 [] ++ [q.2]) ++ [ack] ∧
    pieces ≠ [] := by decide

/-- F5. -/
theorem witness_ExceptionFrameEndsByTheIdleCutoff :
    bexc.length = 5 ∧ byteAt bexc 1 ≠ 0x03 ∧
    (bench host [] [bexc, [], [], [], ack]).env.rx = bexc :: [] :: [] :: [] :: [ack] := by decide

theorem witness_HandlerMakesExactlyOneExchange :
    handlerRequest host .triggerCapture = some trig ∧ handlerRequest host .resetTrigger = some rst ∧
    handlerRequest host .readStatus = some stq ∧ handlerRequest host .readData = some daq ∧
    handlerRequest host .updateBoard = some brdq ∧
    (Instr.updateBoard, (updateBoard host.boardPayload host.tag State.reset).2) ∈
      [(Instr.triggerCapture, (triggerCapture host.addr host.tag State.reset).2),
        (.resetTrigger, (resetTrigger host.addr host.tag State.reset).2),
        (.readStatus, (readStatus host.addr host.tag State.reset).2),
        (.readData, (readData host.addr host.tag State.reset).2),
        (.updateBoard, (updateBoard host.boardPayload host.tag State.reset).2)] := by
  refine ⟨by decide +kernel, by decide +kernel, by decide +kernel, by decide +kernel,
    by decide +kernel, ?_⟩
  simp

/-- A state for each clause: the failed write, silence, a decoder's error, Ok, and for READ_STATUS and
READ_DATA a short and a long enough payload. -/
theorem witness_HandlerReportsTheFirstError :
    handlerExpects host .triggerCapture = some (0x11, 0x10) ∧
    handlerExpects host .readStatus = some (0x11, 0x03) ∧
    handlerExpects host .readData = some (0x11, 0x03) ∧
    handlerExpects host .updateBoard = some (0x20, 0x10) ∧
    (bench host [false] [ack]).env.takeTx.1 = false ∧
    ((bench host [true] [[]]).env.takeTx.1 = true ∧
      bytesRead (after .readStatus (bench host [true] [[]])).trace = []) ∧
    ((bench host [true] [exc4, [], [], []]).env.takeTx.1 = true ∧
      bytesRead (after .triggerCapture (bench host [true] [exc4, [], [], []])).trace = exc4 ∧
      decodeAndVerify exc4 0x11 0x10 = .error (.deviceException 4)) ∧
    decodeAndVerify ack 0x11 0x10 = .ok [0, 1, 0, 1] ∧
    decodeAndVerify st1 0x11 0x03 = .ok [2, 0, 1] ∧ 2 ≤ (byteAt [2, 0, 1] 0).toNat ∧
    (decodeAndVerify [0x11, 0x03, 0x00, 0x21, 0x35] 0x11 0x03 = .ok [0] ∧ (byteAt [0] 0).toNat < 2) ∧
    (decodeAndVerify [0x11, 0x03, 0x10, 0x00, 0x02, 0x00, 0x00, 0x7A, 0x31] 0x11 0x03 =
      .ok [0x10, 0, 2, 0, 0] ∧ [0x10, 0, 2, 0, 0].length < 17) ∧
    (decodeAndVerify dat 0x11 0x03 = .ok ((dat.drop 2).take 17) ∧
      16 ≤ (byteAt ((dat.drop 2).take 17) 0).toNat ∧ 17 ≤ ((dat.drop 2).take 17).length) := by
  decide +kernel

theorem witness_HandlerFrame :
    (bench host [true] [ack]).buffersOk = true ∧
    handlerExpects host .updateBoard = some (0x20, 0x10) ∧
    handlerRequest host .updateBoard = some brdq ∧
    ∃ t, exec .updateBoard (bench host [true] [ack]) = .next t :=
  ⟨by decide, by decide, by decide +kernel, _, rfl⟩

theorem witness_AcknowledgedWriteSucceeds :
    handlerExpects host .triggerCapture = some (0x11, 0x10) ∧
    handlerRequest host .triggerCapture = some trig ∧
    handlerExpects host .resetTrigger = some (0x11, 0x10) ∧
    handlerRequest host .resetTrigger = some rst ∧
    handlerExpects host .updateBoard = some (0x20, 0x10) ∧
    handlerRequest host .updateBoard = some brdq ∧
    (bench host [true] [ack]).env.tx = true :: [] ∧
    (bench host [true] [ack]).env.rx = withChecksum [0x11, 0x10, 0, 1, 0, 1] :: [] ∧
    (bench host [true] [back]).env.rx = withChecksum [0x20, 0x10, 0, 0, 0, 0x0D] :: [] := by
  decide +kernel

theorem witness_ReadStatusReturnsTheLowByte :
    let s := bench host [true, false] [st7, ack]
    s.env.tx = true :: [false] ∧ s.env.rx = withChecksum [s.ops.addr, 0x03, 2, 0, 7] :: [ack] := by
  decide +kernel

theorem witness_ReadDataDeliversTheReading :
    let s := bench host [true] [dat]
    s.env.tx = true :: [] ∧
    s.env.rx = withChecksum ([s.ops.addr, 0x03, 16] ++
      [(0x0002 : Half), 0x0000, 0x4142, 0x4331, 0x3233, 0x3458, 0x005F, 0x0000].flatMap be16) :: [] := by
  decide +kernel

theorem witness_DeviceExceptionIsReported :
    let s := bench host [true] [exc4, [], [], [], ack]
    handlerExpects s.ops .triggerCapture = some (0x11, 0x10) ∧ s.env.tx = true :: [] ∧
    s.env.rx = withChecksum [0x11, 0x10 ||| 0x80, 4] :: [] :: [] :: [] :: [ack] := by decide +kernel

theorem witness_RequestFrameIsOneExchange :
    (bench host [] []).buffersOk = true ∧
    (Instr.wf (.rhrRequest 0x11 0 8 tag1234) = true ∧
      ∃ start qty, Instr.rhrRequest 0x11 0 8 tag1234 = .rhrRequest 0x11 start qty tag1234 ∧
        (0x03 : Byte) = 0x03 ∧ ([0, 0, 0, 8] : List Byte) = [hi8 start, lo8 start, hi8 qty, lo8 qty]) ∧
    (Instr.wf (.wmrRequest 0x11 1 [1] tag1234) = true ∧
      ∃ start values, Instr.wmrRequest 0x11 1 [1] tag1234 = .wmrRequest 0x11 start values tag1234 ∧
        (0x10 : Byte) = 0x10 ∧ ([0, 1, 0, 1, 2, 0, 1] : List Byte) =
          [hi8 start, lo8 start, 0, BitVec.ofNat 8 values.length,
            BitVec.ofNat 8 (2 * values.length)] ++ values.flatMap be16) :=
  ⟨by decide, ⟨by decide, 0, 8, rfl, rfl, by decide⟩, ⟨by decide, 1, [1], rfl, rfl, by decide⟩⟩

theorem witness_ArrivedFrameIsReadNext :
    let s := bench { host with len := 64 } [] []
    s.env.rx = [] ∧ s.ops.len = 64 ∧
    (Instr.wf (.rhrResponse 0x11 (List.replicate 59 0)) = true ∧
      ∃ a data, Instr.rhrResponse 0x11 (List.replicate 59 0) = .rhrResponse a data) ∧
    (Instr.wf (.wmrAck 0x11 0 1 0 1) = true ∧
      ∃ a p0 p1 p2 p3, Instr.wmrAck 0x11 0 1 0 1 = .wmrAck a p0 p1 p2 p3) :=
  ⟨rfl, rfl, ⟨by decide, _, _, rfl⟩, ⟨by decide, _, _, _, _, _, rfl⟩⟩

theorem witness_NoRetriesFailsAtOnce : (bench { host with maxRetries := 0 } [] []).ops.maxRetries = 0 := by
  decide

theorem witness_EveryTriggerTimesOut :
    let s := bench { host with maxRetries := 25 } (List.replicate 25 true) (List.replicate 25 [])
    1 ≤ 25 ∧ 25 ≤ 25 ∧ s.ops.maxRetries = BitVec.ofNat 8 25 ∧
    s.env.tx = List.replicate 25 true ++ [] ∧ s.env.rx = List.replicate 25 [] ++ [] := by decide

/-- O5. -/
theorem witness_ZeroBudgetMakesNoPoll :
    let s := bench { host with maxRetries := 2, timeout := 99 } [true, true] [ack, ack]
    1 ≤ 2 ∧ 2 ≤ 25 ∧ s.ops.maxRetries = BitVec.ofNat 8 2 ∧ s.ops.timeout.toNat < 100 ∧
    s.env.tx = List.replicate 2 true ++ [] ∧
    s.env.rx = List.replicate 2 (withChecksum [s.ops.addr, 0x10, 0, 1, 0, 1]) ++ [] := by decide +kernel

/-- P3, the last poll of the budget being the good one. -/
theorem witness_CaptureSucceedsAfterPolls :
    let s := bench { host with timeout := 300 } (List.replicate 6 true) [ack, st1, st1, st2, dat, ack]
    1 ≤ s.ops.maxRetries.toNat ∧ s.ops.maxRetries.toNat ≤ 25 ∧ 2 < s.ops.timeout.toNat / 100 ∧
    (1 : Byte) ≠ 2 ∧ (1 : Byte) ≠ 3 ∧ ack.length ≤ 64 ∧ (ack = [] ∨ frameComplete ack = true) ∧
    s.env.tx = List.replicate (2 + 3) true ++ true :: [] ∧
    s.env.rx = withChecksum [s.ops.addr, 0x10, 0, 1, 0, 1] ::
      List.replicate 2 (withChecksum [s.ops.addr, 0x03, 2, 0, 1]) ++
      withChecksum [s.ops.addr, 0x03, 2, 0, 2] ::
      withChecksum ([s.ops.addr, 0x03, 16] ++
        [(0x0002 : Half), 0x0000, 0x4142, 0x4331, 0x3233, 0x3458, 0x005F, 0x0000].flatMap be16) ::
      ack :: [] := by decide +kernel

theorem witness_CapturePlateIsBounded : ∃ t, exec .capturePlate (bench host [] []) = .next t :=
  ⟨_, rfl⟩

theorem witness_TriggeredEntersPolling :
    let s := midCapture .triggered (bench host [] [])
    s.inbox = .engine :: [] ∧ s.ctl.busy = true ∧ s.ctl.midway = true ∧ s.ctl.orch = .triggered := by
  decide

/-- A retry that follows, and the last one; the answers that lead to each outcome. -/
theorem witness_IdleTriggersOrBacksOff :
    let s := midCapture .idle (bench { host with maxRetries := 25 } [true] [[]])
    let last := { s with work := { s.work with attempt := 24 } }
    (s.inbox = .engine :: [] ∧ s.ctl.busy = true ∧ s.ctl.midway = true ∧ s.ctl.orch = .idle ∧
      s.work.attempt < s.ops.maxRetries ∧ s.ops.maxRetries.toNat ≤ 25 ∧
      s.work.attempt.toNat + 1 < s.ops.maxRetries.toNat) ∧
    (last.work.attempt < last.ops.maxRetries ∧ last.ops.maxRetries.toNat ≤ last.work.attempt.toNat + 1) ∧
    (triggerCapture s.ops.addr s.ops.tag { s with inbox := [] }).1 = .error .timeout ∧
    (triggerCapture last.ops.addr last.ops.tag { last with inbox := [] }).1 = .error .timeout ∧
    (let good := midCapture .idle (bench host [true] [ack])
     good.ctl.orch = .idle ∧ good.work.attempt < good.ops.maxRetries ∧
       (triggerCapture good.ops.addr good.ops.tag { good with inbox := [] }).1 = .ok ()) := by
  decide +kernel

theorem witness_ExhaustedPollingRetriesOrFails :
    let s := midCapture .polling (bench host [] [])
    let last := { s with work := { s.work with attempt := 2 } }
    s.inbox = .engine :: [] ∧ s.ctl.busy = true ∧ s.ctl.midway = true ∧ s.ctl.orch = .polling ∧
    s.work.pollBudget ≤ s.work.pollCount ∧ s.work.attempt + 1 < s.ops.maxRetries ∧
    last.ops.maxRetries ≤ last.work.attempt + 1 := by decide

theorem witness_PollOutcomeDecides :
    let at' := fun (k : Byte) (answer : List Byte) =>
      let s := midCapture .polling (bench host [true] [answer])
      { s with work := { s.work with pollBudget := 1, attempt := k } }
    ((at' 0 st3).inbox = .engine :: [] ∧ (at' 0 st3).ctl.busy = true ∧ (at' 0 st3).ctl.midway = true ∧
      (at' 0 st3).ctl.orch = .polling ∧ (at' 0 st3).work.pollCount < (at' 0 st3).work.pollBudget ∧
      (at' 0 st3).work.attempt < (at' 0 st3).ops.maxRetries ∧ (at' 0 st3).ops.maxRetries.toNat ≤ 25 ∧
      (at' 0 st3).env.tx = true :: [] ∧
      (at' 0 st3).env.rx = withChecksum [(at' 0 st3).ops.addr, 0x03, 2, 0, 3] :: [] ∧
      (at' 0 st3).work.attempt.toNat + 1 < (at' 0 st3).ops.maxRetries.toNat) ∧
    ((at' 2 st3).work.attempt < (at' 2 st3).ops.maxRetries ∧
      (at' 2 st3).work.attempt.toNat + 1 = (at' 2 st3).ops.maxRetries.toNat) ∧
    ((at' 0 st7).env.rx = withChecksum [(at' 0 st7).ops.addr, 0x03, 2, 0, 7] :: [] ∧
      (7 : Byte) ≠ 2 ∧ (7 : Byte) ≠ 3) ∧
    (let asked := fun (rx : List (List Byte)) =>
      let s := { at' 0 [] with env := { tx := [true, true], rx := rx, drawn := 0 } }
      readStatus s.ops.addr s.ops.tag
        { s with inbox := [], work := { s.work with pollCount := s.work.pollCount + 1 } }
     (asked [[]]).1 = .error .timeout ∧ (asked [st7]).1 = .ok 7 ∧ (asked [st2, []]).1 = .ok 2 ∧
       (readData host.addr host.tag (asked [st2, []]).2).1 = .error .timeout) := by decide +kernel

theorem witness_OrchestratorTransitionsAreTheListed :
    let s := midCapture .polling (bench host [] [])
    (s.inbox = .engine :: [] ∧ s.ctl.busy = true ∧ s.ctl.midway = true ∧ ∃ t, step s = .next t) ∧
    (midCapture .succeeded (bench host [] [])).ctl.orch = .succeeded :=
  ⟨⟨rfl, rfl, rfl, _, rfl⟩, rfl⟩

theorem witness_EngineTurnsReachTheRun :
    let s := started 0x20 (bench host [] [])
    s.inbox = [] ∧ s.ctl.busy = true ∧ s.ctl.midway = false ∧ s.ctl.curOp = 0x20 ∧
    (s.ops.maxRetries.toNat + 1) * (s.ops.timeout.toNat / 100 + 4) + 1 ≤ 57 := by decide

theorem witness_BackoffDoublesAndTimeoutsAreOrdered : (25 : Byte).toNat ≤ 25 ∧ (0 : Byte).toNat ≤ 25 := by
  decide

theorem witness_UnproducedResultsReadZero :
    (Instr.lane .readStatus = .cmd ∧ (∃ t, exec .readStatus (bench host [true] [st1]) = .next t) ∧
      Instr.readStatus ≠ .crc16 ∧ Instr.readStatus ∉ ([.readData, .capturePlate] : List Instr) ∧
      (after .readStatus (bench host [true] [st1])).res.err ≠ 0x04) ∧
    (Instr.crc16 ≠ .readStatus ∧
      Instr.crc16 ∉ ([.encodeFrame, .decodeFrame, .readFrame] : List Instr) ∧
      (after .crc16 (bench { host with len := 65 } [] [])).res.err ≠ 0) :=
  ⟨⟨by decide, ⟨_, rfl⟩, by decide, by decide, by decide +kernel⟩, by decide, by decide,
    by decide +kernel⟩

theorem witness_EveryCommandReturnsDone :
    Instr.lane .capturePlate = .cmd ∧
    (after .readData (bench host [true] [dat])).stat = 0x06 := by decide +kernel

theorem witness_EngineNeverWritesOperands :
    ∃ t, exec .updateBoard (bench host [true] [back]) = .next t := ⟨_, rfl⟩

/-- Two states that differ in the results, the flags, the trace and the working registers. -/
theorem witness_NothingCarriesOverBetweenCommands :
    let s := bench host [true] [st1]
    let s' := { after .encodeFrame s with trace := [.sleep 1] }
    Instr.lane .readStatus = .cmd ∧ s.ops = s'.ops ∧ s.env = s'.env ∧ s.res ≠ s'.res ∧ s.work ≠ s'.work ∧
    (∃ t, exec .readStatus s = .next t) ∧ ∃ t', exec .readStatus s' = .next t' :=
  ⟨by decide, by decide +kernel, by decide +kernel, by decide +kernel, by decide +kernel, ⟨_, rfl⟩, ⟨_, rfl⟩⟩

theorem witness_CommandWriteStarts :
    let s := { bench host [] [] with inbox := [.write 0 0xFFFFFF20] }
    s.inbox = .write 0 0xFFFFFF20 :: [] ∧ s.ctl.busy = false := by decide

theorem witness_BusyEngineIgnoresWrites :
    (started 0x10 (bench host [] [])).ctl.busy = true ∧
    (let s := { started 0x10 (bench host [] []) with inbox := [.write 0 0x20] }
     s.ctl.busy = true ∧ s.inbox = .write 0 0x20 :: []) ∧
    (let s := { started 0x10 (bench host [] []) with inbox := [.read 1, .read 20] }
     s.ctl.busy = true ∧ s.inbox = .read 1 :: [.read 20]) ∧
    (let s := { started 0x10 (bench host [] []) with inbox := [.read 20] }
     s.ctl.busy = true ∧ s.inbox = .read 20 :: []) := by decide

theorem witness_OperandReadsBackWhatWasWritten :
    let s := fun (reg : Nat) => { bench host [] [] with inbox := [.write reg 0xFFFFFFFF, .read reg] }
    ((s 2).ctl.busy = false ∧ (s 2).ops.dbuf.wf = true ∧
      (s 2).inbox = .write 2 0xFFFFFFFF :: .read 2 :: [] ∧ 2 ≤ 2 ∧ 2 ≤ 11) ∧
    ((s 11).inbox = .write 11 0xFFFFFFFF :: .read 11 :: [] ∧ 2 ≤ 11 ∧ 11 ≤ 11) ∧
    ((s 76).inbox = .write 76 0xFFFFFFFF :: .read 76 :: [] ∧ 64 ≤ 76 ∧ 76 ≤ 76) ∧
    ((s 191).inbox = .write 191 0xFFFFFFFF :: .read 191 :: [] ∧ 128 ≤ 191 ∧ 191 ≤ 191) := by decide

theorem witness_ReadOnlyRegistersKeepTheirValues :
    let s := fun (reg : Nat) => { bench host [] [] with inbox := [.write reg 1] }
    ((s 1).inbox = .write 1 1 :: []) ∧ ((s 12).inbox = .write 12 1 :: [] ∧ 12 ≤ 12 ∧ 12 ≤ 21) ∧
    ((s 39).inbox = .write 39 1 :: [] ∧ 32 ≤ 39 ∧ 39 ≤ 39) ∧
    ((s 255).inbox = .write 255 1 :: [] ∧ 192 ≤ 255 ∧ 255 ≤ 255) ∧
    (let r := fun (reg : Nat) => { bench host [] [] with inbox := [.read reg] }
     (∀ reg ∈ [1, 12, 13, 14, 15, 16, 17, 18, 19, 20, 21], (r reg).ctl.busy = false ∧
       (r reg).inbox = .read reg :: []) ∧
     ((r 32).inbox = .read (32 + 0) :: [] ∧ 0 < 8) ∧ ((r 39).inbox = .read (32 + 7) :: [] ∧ 7 < 8) ∧
     ((r 192).inbox = .read (192 + 0) :: [] ∧ 0 < 64) ∧
     ((r 255).inbox = .read (192 + 63) :: [] ∧ 63 < 64)) := by decide

theorem witness_IdleEngineKeepsEverything :
    (bench host [] []).inbox = [] ∧ (bench host [] []).ctl.busy = false := by decide

theorem witness_ResetLeavesTheEngineIdle :
    let s := { started 0x10 (bench host [] []) with inbox := [.reset, .engine] }
    s.inbox = .reset :: [.engine] := by decide

theorem witness_ResetAbandonsTheCommand :
    let s := fun (k : Nat) => { started 0x11 (bench host [true] [st1]) with inbox := [.resetAfter k] }
    (∀ k ∈ [0, 1, 2, 3], (s k).inbox = .resetAfter k :: [] ∧ (s k).ctl.busy = true ∧
      (s k).ctl.midway = false ∧ decode .cmd [(s k).ctl.curOp] = .ok .readStatus ∧
      handlerRequest (s k).ops .readStatus = some stq ∧ k ≤ 3) := by decide +kernel

theorem witness_EveryStepKeepsTurnTaking :
    let s := after .readStatus (bench host [true] [st1])
    turnTaking s.trace = true ∧ s.trace ≠ [] ∧ ∃ t, step { s with inbox := [.write 0 0x10] } = .next t :=
  ⟨by decide +kernel, by decide +kernel, _, rfl⟩

theorem witness_EveryStepKeepsTheBuffers :
    (bench (loaded (List.replicate 64 0xFF)) [] []).buffersOk = true ∧
    ∃ t, step { bench (loaded (List.replicate 64 0xFF)) [] [] with inbox := [.write 191 0] } = .next t :=
  ⟨by decide +kernel, _, rfl⟩

theorem witness_EveryStepKeepsTheSequencer :
    (midCapture .polling (bench host [] [])).sequencerOk = true ∧
    ∃ t, step (midCapture .polling (bench host [] [])) = .next t := ⟨by decide, _, rfl⟩

theorem witness_EveryStepKeepsTheResultRanges :
    let s := midCapture .polling (bench host [] [])
    s.sequencerOk = true ∧ s.resultsOk = true ∧ ∃ t, step s = .next t := ⟨by decide, by decide, _, rfl⟩

end Sys2Proof.Tests
end

section
/-! The illegal opcodes and operands (30_encoding.md R98): each command's operand test in terms of the
registers, what each command does when its test fails, and O16 from both. -/

namespace Sys2Proof.Machine

/-- The state after a command with opcode `op` has been refused (30_encoding.md R98). -/
def State.misused (op : Byte) (s : State) : State :=
  { s with res := { Results.zero with err := 0x09 }, ctl := s.ctl.returned op false }

/-- The way every command takes when it is refused: start, report, return. -/
@[simp] theorem finish_reportError_callerMisuse_begin (op : Byte) (s : State) :
    ((s.begin op).reportError .callerMisuse).finish = s.misused op := rfl

/-! ### When an operand is illegal -/

theorem Operands.crcBytes_eq_none_iff {o : Operands} :
    o.crcBytes = none ↔ 64 < o.off.toNat + o.len.toNat := by
  simp [Operands.crcBytes]

theorem Operands.encodePayload_eq_none_iff {o : Operands} :
    o.encodePayload = none ↔ 56 < o.len.toNat := by
  simp [Operands.encodePayload]

theorem Operands.decodeBytes_eq_none_iff {o : Operands} :
    o.decodeBytes = none ↔ 64 < o.len.toNat := by
  simp [Operands.decodeBytes]

theorem Operands.readMaxLen_eq_none_iff {o : Operands} :
    o.readMaxLen = none ↔ o.len = 0 ∨ 64 < o.len.toNat := by
  simp only [Operands.readMaxLen, ite_eq_left_iff, reduceCtorEq, imp_false, not_not]

theorem Operands.retriesLegal_eq_false_iff {o : Operands} :
    o.retriesLegal = false ↔ 25 < o.maxRetries.toNat := by
  simp [Operands.retriesLegal]

/-- A value of CMD outside the ten of 30_encoding.md R97 is no instruction. -/
theorem decodeOpcode_illegal {op : Byte}
    (h : op ∉ ([0x01, 0x02, 0x03, 0x04, 0x10, 0x11, 0x12, 0x13, 0x14, 0x20] : List Byte)) :
    decodeOpcode op = .error (.illegalOpcode op) := by
  simp only [List.mem_cons, List.not_mem_nil, or_false, not_or] at h
  simp only [decodeOpcode, h, if_false]

/-! ### What a command does with an illegal operand -/

theorem exec_crc16_misuse {s : State} (h : s.ops.crcBytes = none) :
    exec .crc16 s = .next (s.misused 0x01) := by
  simp [exec, execCrc16, crc16Body, h]

theorem exec_encodeFrame_misuse {s : State} (h : s.ops.encodePayload = none) :
    exec .encodeFrame s = .next (s.misused 0x02) := by
  simp [exec, execEncodeFrame, encodeBody, h]

theorem exec_decodeFrame_misuse {s : State} (h : s.ops.decodeBytes = none) :
    exec .decodeFrame s = .next (s.misused 0x03) := by
  simp [exec, execDecodeFrame, decodeBody, h]

theorem exec_readFrame_misuse {s : State} (h : s.ops.readMaxLen = none) :
    exec .readFrame s = .next (s.misused 0x04) := by
  simp [exec, execReadFrame, readFrameBody, h]

theorem captureStart_misuse {s : State} (h : s.ops.retriesLegal = false) :
    captureStart s = s.misused 0x20 := by
  simp [captureStart, h]

/-- CAPTURE_PLATE has returned after its first statements, so no transition of the orchestrator follows. -/
theorem exec_capturePlate_misuse {s : State} (h : s.ops.retriesLegal = false) :
    exec .capturePlate s = .next (s.misused 0x20) := by
  have hreturned : (s.misused 0x20).ctl.busy = false := rfl
  simp only [exec, execCapturePlate, captureStart_misuse h, captureRest, captureLoop_returned hreturned]

/-- A started command whose opcode no instruction has is refused under its own opcode. -/
theorem step_illegalOpcode {s : State} {e : DecodeError} (hinbox : s.inbox = [])
    (hbusy : s.ctl.busy = true) (hmid : s.ctl.midway = false) (hop : decodeOpcode s.ctl.curOp = .error e) :
    step s = .next (s.misused s.ctl.curOp) := by
  have hrun : step s = runCommand s := by simp only [step, advance, hinbox, engineRun, hbusy, if_true]
  simp [hrun, runCommand, hmid, decode, hop, illegalCommand]

/-- Settles O16: the legality test of each command in terms of its operands, then what the command does
when the test fails. -/
theorem illegalCommandsAreCallerMisuse : Obligations.IllegalCommandsAreCallerMisuse := by
  intro s
  refine ⟨?opcode, ?crc16, ?encode, ?decode, ?readFrame, ?capture⟩
  case opcode =>
    intro hinbox hbusy hmid hop
    exact step_illegalOpcode hinbox hbusy hmid (decodeOpcode_illegal hop)
  case crc16 => exact fun h => exec_crc16_misuse (Operands.crcBytes_eq_none_iff.2 h)
  case encode => exact fun h => exec_encodeFrame_misuse (Operands.encodePayload_eq_none_iff.2 h)
  case decode => exact fun h => exec_decodeFrame_misuse (Operands.decodeBytes_eq_none_iff.2 h)
  case readFrame => exact fun h => exec_readFrame_misuse (Operands.readMaxLen_eq_none_iff.2 h)
  case capture => exact fun h => exec_capturePlate_misuse (Operands.retriesLegal_eq_false_iff.2 h)

end Sys2Proof.Machine
end

section
/-! The frame codec (41_frame_codec.md R133 to R139): the decoder's verdict by the test that decides it,
the effect of a changed checksum byte, and O10 to O13 from both. -/

namespace Sys2Proof.Machine

/-! ### The verdict, by the first test that decides it (R134) -/

theorem decodeAndVerify_of_short {b : List Byte} (h : b.length < 5) (ea ef : Byte) :
    decodeAndVerify b ea ef = .error .frameTooShort := by
  simp [decodeAndVerify, h]

theorem decodeAndVerify_of_badChecksum {b : List Byte} (h : 5 ≤ b.length)
    (hc : frameChecksum b ≠ crc16 (frameBody b)) (ea ef : Byte) :
    decodeAndVerify b ea ef = .error .checksumMismatch := by
  simp [decodeAndVerify, h, hc]

/-- The tests that remain when length and checksum are good. -/
theorem decodeAndVerify_of_goodChecksum {b : List Byte} (h : 5 ≤ b.length)
    (hc : frameChecksum b = crc16 (frameBody b)) (ea ef : Byte) :
    decodeAndVerify b ea ef =
      if byteAt b 0 ≠ ea then .error .addressMismatch
      else if byteAt b 1 = ef then .ok (framePayload b)
      else if byteAt b 1 = ef ||| 0x80 then .error (.deviceException (byteAt b 2))
      else .error .functionMismatch := by
  simp [decodeAndVerify, h, hc]

/-- The received checksum is good when its two bytes are those of the recomputed one, low byte first
(R133). -/
theorem frameChecksum_good_iff (b : List Byte) :
    frameChecksum b = crc16 (frameBody b) ↔
      byteAt b (b.length - 2) = lo8 (crc16 (frameBody b)) ∧
        byteAt b (b.length - 1) = hi8 (crc16 (frameBody b)) :=
  half_eq_iff _ _ _

/-- The payload slice `b[2 .. n − 3]` as the `n − 4` bytes after the function byte (R135). -/
theorem framePayload_eq_take_drop (b : List Byte) :
    framePayload b = (b.drop 2).take (b.length - 4) := by
  rw [framePayload, frameBody, List.drop_take, Nat.sub_sub]

/-- EXC_BIT makes another function byte of one with bit 7 clear (R134, R139). -/
theorem or_excBit_ne {ef : Byte} (h : ef.getLsbD 7 = false) : ef ||| 0x80 ≠ ef := by
  intro heq
  have hset : (ef ||| 0x80).getLsbD 7 = true := by simp
  rw [heq, h] at hset
  contradiction

/-! ### A changed checksum byte (R138) -/

/-- The two places of the checksum field in a frame, and what stands there. -/
@[simp] theorem byteAt_withChecksum_lo (body : List Byte) :
    byteAt (withChecksum body) body.length = lo8 (crc16 body) :=
  byteAt_append_right body _ 0

@[simp] theorem byteAt_withChecksum_hi (body : List Byte) :
    byteAt (withChecksum body) (body.length + 1) = hi8 (crc16 body) :=
  byteAt_append_right body _ 1

/-- Writing to either place leaves the body and the other checksum byte. -/
theorem set_withChecksum_lo (body : List Byte) (x : Byte) :
    (withChecksum body).set body.length x = body ++ [x, hi8 (crc16 body)] := by
  simp [withChecksum, le16, List.set_append_right]

theorem set_withChecksum_hi (body : List Byte) (y : Byte) :
    (withChecksum body).set (body.length + 1) y = body ++ [lo8 (crc16 body), y] := by
  simp [withChecksum, le16, List.set_append_right]

@[simp] theorem frameBody_append_pair (body : List Byte) (x y : Byte) :
    frameBody (body ++ [x, y]) = body := by
  simp [frameBody]

/-- Any other two bytes in the place of the checksum are detected. -/
theorem decodeAndVerify_append_pair {body : List Byte} {x y : Byte} (h : 3 ≤ body.length)
    (hxy : ¬ (x = lo8 (crc16 body) ∧ y = hi8 (crc16 body))) (ea ef : Byte) :
    decodeAndVerify (body ++ [x, y]) ea ef = .error .checksumMismatch := by
  have hlen : 5 ≤ (body ++ [x, y]).length := by simp; omega
  have hx : byteAt (body ++ [x, y]) body.length = x := byteAt_append_right body _ 0
  have hy : byteAt (body ++ [x, y]) (body.length + 1) = y := byteAt_append_right body _ 1
  apply decodeAndVerify_of_badChecksum hlen
  rw [ne_eq, frameChecksum_good_iff]
  simpa [hx, hy] using hxy

/-- Flipping a bit of a byte gives another byte. -/
theorem xor_bit_ne (x : Byte) {k : Nat} (hk : k < 8) : x ^^^ (1#8 <<< k) ≠ x := by
  have hbit : ∀ k < 8, 1#8 <<< k ≠ 0#8 := by decide
  simpa using hbit k hk

/-- A bit flipped in either checksum byte of any frame is detected, whatever the decoder expects. -/
theorem decodeAndVerify_flipped {body : List Byte} {j k : Nat} (h : 3 ≤ body.length) (hk : k < 8)
    (hj : j = body.length ∨ j = body.length + 1) (ea ef : Byte) :
    decodeAndVerify
      ((withChecksum body).set j (byteAt (withChecksum body) j ^^^ (1#8 <<< k))) ea ef =
      .error .checksumMismatch := by
  rcases hj with rfl | rfl
  · rw [byteAt_withChecksum_lo, set_withChecksum_lo]
    exact decodeAndVerify_append_pair h (fun hgood => xor_bit_ne _ hk hgood.1) ea ef
  · rw [byteAt_withChecksum_hi, set_withChecksum_hi]
    exact decodeAndVerify_append_pair h (fun hgood => xor_bit_ne _ hk hgood.2) ea ef

/-! ### The laws of the codec -/

/-- Settles O10: the frame is a body with its checksum, and the verdict on such a frame is its payload
when address and function are the expected ones. -/
theorem decodeOfRequestFrameReturnsPayloadAndTag :
    Obligations.DecodeOfRequestFrameReturnsPayloadAndTag := by
  intro a f p t _
  have hlen : 1 ≤ (p ++ tagBytes t).length := by simp [tagBytes]
  calc decodeAndVerify (requestFrame a f p t) a f
      = decodeAndVerify (withChecksum (a :: f :: (p ++ tagBytes t))) a f := rfl
    _ = .ok (p ++ tagBytes t) := by simp [decodeAndVerify_withChecksum hlen]

/-- Settles O11: the flipped byte is one of the two checksum bytes of the request's body. -/
theorem flippedChecksumBitIsDetected : Obligations.FlippedChecksumBitIsDetected := by
  intro a f p t j k _ hk fr hj
  have hbody : (requestBody a f p t).length = p.length + 6 := by simp [requestBody, tagBytes]
  have hfr : fr.length = p.length + 8 := requestFrame_length a f p t
  exact decodeAndVerify_flipped (by omega) hk (by omega) a f

/-- Settles O12: the function byte is not the expected one, since bit 7 tells them apart, so the verdict
is the device's exception. -/
theorem exceptionFrameYieldsItsCode : Obligations.ExceptionFrameYieldsItsCode := by
  intro a ef code q hbit
  calc decodeAndVerify (withChecksum (a :: (ef ||| 0x80) :: code :: q)) a ef
      = .error (.deviceException (byteAt (code :: q) 0)) := by
        rw [decodeAndVerify_withChecksum (by simp)]
        simp only [ne_eq, not_true_eq_false, or_excBit_ne hbit, if_true, if_false]
    _ = .error (.deviceException code) := rfl

/-- Settles O13: each clause is the verdict under the tests before it; a good checksum is tested by its
two bytes. -/
theorem decoderTestsInTheListedOrder : Obligations.DecoderTestsInTheListedOrder := by
  intro b ea ef
  refine ⟨fun hshort => decodeAndVerify_of_short hshort ea ef, fun hlen => ?_⟩
  intro good
  have hgood : frameChecksum b = crc16 (frameBody b) ↔ good := frameChecksum_good_iff b
  have verdict (hg : good) := decodeAndVerify_of_goodChecksum hlen (hgood.2 hg) ea ef
  refine ⟨?checksum, ?address, ?payload, ?exception, ?function⟩
  case checksum =>
    exact fun hbad => decodeAndVerify_of_badChecksum hlen (fun hc => hbad (hgood.1 hc)) ea ef
  case address =>
    intro hg haddr
    rw [verdict hg, if_pos haddr]
  case payload =>
    intro hg haddr hfunc
    rw [verdict hg, if_neg (not_not_intro haddr), if_pos hfunc, framePayload_eq_take_drop]
  case exception =>
    intro hg haddr hfunc hexc
    rw [verdict hg, if_neg (not_not_intro haddr), if_neg hfunc, if_pos hexc]
  case function =>
    intro hg haddr hfunc hexc
    rw [verdict hg, if_neg (not_not_intro haddr), if_neg hfunc, if_neg hexc]

end Sys2Proof.Machine
end

section
/-! The stream framer (42_stream_framer.md R147 to R158): one turn of the loop of `read_frame` by what its
read finds, when the prefix of a read response is complete, and O17, O19 and O20 from these. -/

namespace Sys2Proof.Machine

/-! ### One turn of the loop (R150, R151, R154) -/

/-- The state after the port events `evs`, with `rest` left in the receive stream. -/
def State.afterEvents (evs : List Event) (rest : List (List Byte)) (s : State) : State :=
  { s with env := { s.env with rx := rest }, trace := s.trace ++ evs }

@[simp] theorem afterEvents_rx (evs : List Event) (rest : List (List Byte)) (s : State) :
    (s.afterEvents evs rest).env.rx = rest := rfl
@[simp] theorem afterEvents_trace (evs : List Event) (rest : List (List Byte)) (s : State) :
    (s.afterEvents evs rest).trace = s.trace ++ evs := rfl

@[simp] theorem afterEvents_afterEvents (evs evs' : List Event) (rest rest' : List (List Byte))
    (s : State) :
    (s.afterEvents evs rest).afterEvents evs' rest' = s.afterEvents (evs ++ evs') rest' := by
  simp [State.afterEvents]

@[simp] theorem afterEvents_nil (s : State) : s.afterEvents [] s.env.rx = s := by
  simp [State.afterEvents]

/-- A read that finds a chunk no longer than it asked for takes it off the stream. -/
theorem rxRead_chunk {n : Nat} {s : State} {c : List Byte} {rest : List (List Byte)} (cls : ReadClass)
    (h : s.env.rx = c :: rest) (hn : c.length ≤ n) :
    rxRead n cls s = (c, s.afterEvents [.rx n cls c] rest) := by
  simp [rxRead, takeRx_cons h hn, State.afterEvents]

/-- A complete frame ends the loop, however many reads are left. -/
theorem assemble_complete {acc : List Byte} (h : frameComplete acc = true) (fuel m e : Nat)
    (s : State) : assemble fuel m acc e s = (acc, s.latchRx acc e) := by
  cases fuel with
  | zero => rfl
  | succ fuel => simp [assemble, h]

section
variable {m e fuel : Nat} {acc c : List Byte} {s : State} {rest : List (List Byte)}

/-- Bytes that arrive join the buffer, and the count of empty reads starts again. -/
theorem assemble_chunk (hacc : frameComplete acc = false) (hroom : acc.length + c.length ≤ m)
    (hc : c ≠ []) (hrx : s.env.rx = c :: rest) :
    assemble (fuel + 1) m acc e s =
      assemble fuel m (acc ++ c) 0 (s.afterEvents [.rx (m - acc.length) .next c] rest) := by
  have hpos : 0 < c.length := List.length_pos_of_ne_nil hc
  have hfull : ¬ m ≤ acc.length := by omega
  simp [assemble, hacc, hfull, rxRead_chunk .next hrx (n := m - acc.length) (by omega), hc]

/-- An empty read before the third in a row is counted. -/
theorem assemble_silent (hacc : frameComplete acc = false) (hroom : acc.length < m) (he : e < 2)
    (hrx : s.env.rx = [] :: rest) :
    assemble (fuel + 1) m acc e s =
      assemble fuel m acc (e + 1) (s.afterEvents [.rx (m - acc.length) .next []] rest) := by
  have hcut : e ≠ 2 := by omega
  have hfull : ¬ m ≤ acc.length := by omega
  simp [assemble, hacc, hfull, rxRead_chunk .next hrx (n := m - acc.length) (by simp), hcut,
    Config.kEmpty]

/-- The third empty read in a row ends the loop (R150). -/
theorem assemble_idle (hacc : frameComplete acc = false) (hroom : acc.length < m)
    (hrx : s.env.rx = [] :: rest) :
    assemble (fuel + 1) m acc 2 s =
      (acc, (s.afterEvents [.rx (m - acc.length) .next []] rest).latchRx acc 3) := by
  have hfull : ¬ m ≤ acc.length := by omega
  simp [assemble, hacc, hfull, rxRead_chunk .next hrx (n := m - acc.length) (by simp)]

/-- At most two empty reads in a row change nothing but their count and the trace. -/
theorem assemble_silences (hacc : frameComplete acc = false) (hroom : acc.length < m) :
    ∀ (k e : Nat) (s : State), e + k ≤ 2 → s.env.rx = List.replicate k [] ++ rest →
      assemble (fuel + k) m acc e s = assemble fuel m acc (e + k)
        (s.afterEvents (List.replicate k (.rx (m - acc.length) .next [])) rest)
  | 0, e, s, _, hrx => by
    have hrest : rest = s.env.rx := by simpa using hrx.symm
    simp [hrest]
  | k + 1, e, s, hk, hrx => by
    rw [← Nat.add_assoc, assemble_silent hacc hroom (by omega) hrx,
      assemble_silences hacc hroom k (e + 1) _ (by omega) rfl, afterEvents_afterEvents]
    simp [List.replicate_succ, Nat.add_comm, Nat.add_left_comm]

/-! ### The first read (R147, R148) -/

/-- A first read that brings bytes starts the loop on them. -/
theorem readFrame_chunk {n : Nat} (hn : c.length ≤ n) (hc : c ≠ []) (hrx : s.env.rx = c :: rest) :
    readFrame n s = assemble (3 * n) n c 0 (s.afterEvents [.rx n .first c] rest) := by
  simp [readFrame, rxRead_chunk .first hrx hn, hc]

/-- An incomplete first piece followed by three empty reads is returned as it is (R150). -/
theorem readFrame_idle {n : Nat} (hn : c.length < n) (hc : c ≠ []) (hinc : frameComplete c = false)
    (hrx : s.env.rx = c :: [] :: [] :: [] :: rest) :
    readFrame n s =
      (c, (s.afterEvents (.rx n .first c :: List.replicate 3 (.rx (n - c.length) .next []))
        rest).latchRx c 3) := by
  have hpos : 0 < c.length := List.length_pos_of_ne_nil hc
  obtain ⟨fuel, hfuel⟩ : ∃ fuel, 3 * n = fuel + 1 + 2 := ⟨3 * n - 3, by omega⟩
  rw [readFrame_chunk hn.le hc hrx, hfuel,
    assemble_silences (rest := [] :: rest) hinc hn 2 0 _ (by omega) rfl,
    assemble_idle hinc hn rfl, afterEvents_afterEvents, afterEvents_afterEvents]
  rfl

end

/-! ### A read response and its prefixes (R151) -/

/-- The bytes have a read response's function byte and the length their byte count predicts. -/
structure IsReadResponse (b : List Byte) : Prop where
  func : byteAt b 1 = 0x03
  length : b.length = (byteAt b 2).toNat + 5

/-- The completion test accepts the whole of a read response and none of its proper prefixes. -/
theorem frameComplete_prefix_iff {acc rest : List Byte} (h : IsReadResponse (acc ++ rest)) :
    frameComplete acc = true ↔ rest = [] := by
  have hlen : acc.length + rest.length = (byteAt (acc ++ rest) 2).toNat + 5 := by
    rw [← List.length_append, h.length]
  by_cases h5 : 5 ≤ acc.length
  · have hfunc : byteAt acc 1 = 0x03 := by
      rw [← byteAt_append_left (by omega) rest, h.func]
    have hcount : byteAt (acc ++ rest) 2 = byteAt acc 2 := byteAt_append_left (by omega) rest
    rw [hcount] at hlen
    simp only [frameComplete, hfunc, if_true, Bool.and_eq_true, decide_eq_true_eq,
      ← List.length_eq_zero_iff, Config.minFrame, Config.rhrOverhead]
    omega
  · have hrest : rest ≠ [] := by
      rintro rfl
      simp only [List.length_nil] at hlen
      omega
    simp [frameComplete, h5, hrest]

theorem frameComplete_proper_prefix {acc rest : List Byte} (h : IsReadResponse (acc ++ rest))
    (hrest : rest ≠ []) : frameComplete acc = false :=
  Bool.eq_false_iff.2 (mt (frameComplete_prefix_iff h).1 hrest)

/-- The loop puts a read response together from its pieces, whatever empty reads stand between them, as
long as there are at most two in a row; each piece costs at most three reads and brings a byte. -/
theorem assemble_pieces {m : Nat} {later : List (List Byte)} :
    ∀ (pieces : List (Nat × List Byte)) (acc : List Byte) (fuel : Nat) (s : State),
      IsReadResponse (acc ++ pieces.flatMap (·.2)) →
      (acc ++ pieces.flatMap (·.2)).length ≤ m →
      (∀ q ∈ pieces, q.1 ≤ 2 ∧ q.2 ≠ []) →
      s.env.rx = (pieces.flatMap fun q => List.replicate q.1 [] ++ [q.2]) ++ later →
      3 * (pieces.flatMap (·.2)).length ≤ fuel →
      (assemble fuel m acc 0 s).1 = acc ++ pieces.flatMap (·.2) ∧
        (assemble fuel m acc 0 s).2.env.rx = later
  | [], acc, fuel, s, hF, _, _, hrx, _ => by
    have hdone : frameComplete acc = true := (frameComplete_prefix_iff (rest := []) hF).2 rfl
    simpa [assemble_complete hdone] using hrx
  | (k, c) :: pieces, acc, fuel, s, hF, hm, hpieces, hrx, hfuel => by
    obtain ⟨⟨hk : k ≤ 2, hc : c ≠ []⟩, hpieces⟩ := List.forall_mem_cons.1 hpieces
    have hpos : 0 < c.length := List.length_pos_of_ne_nil hc
    have hinc : frameComplete acc = false := frameComplete_proper_prefix hF (by simp [hc])
    simp only [List.flatMap_cons, ← List.append_assoc] at hF hm ⊢
    have hroom : acc.length + c.length + (pieces.flatMap (·.2)).length ≤ m := by
      rwa [List.length_append, List.length_append] at hm
    simp only [List.flatMap_cons, List.length_append] at hfuel
    simp only [List.flatMap_cons, List.append_assoc, List.singleton_append] at hrx
    obtain ⟨fuel, rfl⟩ : ∃ left, fuel = left + 1 + k := ⟨fuel - 1 - k, by omega⟩
    rw [assemble_silences hinc (by omega) k 0 s (by omega) hrx, assemble_chunk hinc (by omega) hc rfl]
    exact assemble_pieces pieces (acc ++ c) fuel _ hF hm hpieces rfl (by omega)

/-! ### The laws of the framer -/

/-- Settles O17: what `read_frame` can do is said by `readFrame_spec`; an empty first read is followed by
no other. -/
theorem readFrameBounds : Obligations.ReadFrameBounds := by
  intro n s hn
  obtain ⟨first, nexts, e, heq, -, hnext, hlen, hcount, hfirst, -⟩ := readFrame_spec hn s.env
  rw [heq s rfl]
  refine ⟨first, nexts, rfl, hnext, rfl, hlen, ?empty, by simpa using hcount⟩
  case empty =>
    constructor
    · intro h
      exact (List.append_eq_nil_iff.1 h).1
    · intro h
      simp [h, hfirst h]

/-- Settles O19: the first piece starts the loop, which puts the pieces together; an empty first read ends
the call with nothing; a first piece that others should follow is incomplete, so the idle cutoff returns
it. -/
theorem splittingDoesNotMatter : Obligations.SplittingDoesNotMatter := by
  intro n s first pieces later F hfunc hlen hn _ hfirst hpieces hrx
  have hF : IsReadResponse (first ++ pieces.flatMap (·.2)) := ⟨hfunc, hlen⟩
  have hparts : first.length + (pieces.flatMap (·.2)).length ≤ n := by
    rw [← List.length_append]
    exact hn
  refine ⟨?whole, ?silent, ?idle⟩
  case whole =>
    rw [readFrame_chunk (by omega) hfirst hrx]
    exact assemble_pieces pieces first (3 * n) _ hF hn hpieces rfl (by omega)
  case silent =>
    intro tail
    rw [readFrame_silent rfl]
  case idle =>
    intro hne tail
    have hrest : pieces.flatMap (·.2) ≠ [] := by
      obtain ⟨q, hq⟩ := List.exists_mem_of_ne_nil pieces hne
      exact fun hnil => (hpieces q hq).2 (List.flatMap_eq_nil_iff.1 hnil q hq)
    have hpos : 0 < (pieces.flatMap (·.2)).length := List.length_pos_of_ne_nil hrest
    rw [readFrame_idle (by omega) hfirst (frameComplete_proper_prefix hF hrest) rfl]

/-- Settles O20: five bytes with another function byte than a read response's are incomplete, so the
call ends by the idle cutoff. -/
theorem exceptionFrameEndsByTheIdleCutoff : Obligations.ExceptionFrameEndsByTheIdleCutoff := by
  intro s b rest hlen hfunc hrx
  have hne : b ≠ [] := by
    rintro rfl
    contradiction
  have hinc : frameComplete b = false := by
    simp only [frameComplete, if_neg hfunc, hlen, Config.ackLen]
    rfl
  rw [readFrame_idle (n := 64) (by omega) hne hinc hrx]
  simp [hlen]

end Sys2Proof.Machine
end

section
/-! The device handlers (43_device_handlers.md R160 to R169): the events of one handler call, what a
handler command reports once its exchange has a verdict, and O21 and O22 from these. -/

namespace Sys2Proof.Machine

/-! ### The events of one handler call (R161) -/

/-- The request of UPDATE_BOARD as a frame; for the other four handlers this form is definitional. -/
theorem handlerRequest_updateBoard (o : Operands) :
    handlerRequest o .updateBoard =
      some (requestFrame Config.addrBoard Config.fcWmr o.boardPayload o.tag) := by
  simp [handlerRequest, Operands.boardPayload, requestFrame, requestBody, wmrPayload, tagBytes, be16,
    hi8, lo8]

/-- A handler call, whatever it makes of the payload, adds the events of one exchange of its request. -/
theorem andThen_transact_trace {o : Operands} {i : Instr} {a f : Byte} {p : List Byte} {t : Tag}
    {α : Type} (hp : p.length ≤ 56) (hreq : handlerRequest o i = some (requestFrame a f p t))
    (g : List Byte → Except Err α) (s : State) :
    ∃ evs, (andThen (transact a f p t s) g).2.trace = s.trace ++ evs ∧
      isExchange ((handlerRequest o i).getD []) evs = true := by
  obtain ⟨ok, reads, -, hreads, -, htrace⟩ := transact_wire hp s
  refine ⟨_, (andThen_snd _ g).symm ▸ htrace, ?_⟩
  simp [hreq, isExchange, hreads]

@[simp] theorem handlerEnd_trace (i : Instr) (v : Except Err (List Byte)) (s : State) :
    (handlerEnd i v s).trace = s.trace := by
  obtain ⟨-, -, htrace, -⟩ := handlerEnd_frame i v s
  exact htrace

/-- A handler command is one exchange of its request, whose verdict is reported from a state `u` with the
result registers and flags of a started command. -/
theorem exec_handler_exchange {i : Instr} {s : State} {a f : Byte}
    (h : handlerExpects s.ops i = some (a, f)) :
    ∃ first nexts u,
      exec i s = .next (handlerEnd i
        (verdict s.env.takeTx.1 (bytesRead (.rx 64 .first first :: nexts)) a f) u) ∧
      u.res = Results.zero ∧ u.ctl = (s.begin i.opcode).ctl ∧
      u.trace = s.trace ++ .tx ((handlerRequest s.ops i).getD []) s.env.takeTx.1 :: .sleep 50 ::
        .rx 64 .first first :: nexts ∧
      nexts.all isNextRead = true := by
  obtain ⟨first, nexts, e, hall, -, hnext, -⟩ := handler_spec s.env
  obtain ⟨p, -, hreq, hexec⟩ := hall i s a f rfl h
  exact ⟨first, nexts, _, hexec, rfl, rfl, by rw [hreq]; rfl, hnext⟩

/-- Settles O21: a handler command is one exchange and a report without port events; a handler call is one
exchange and a look at its payload. -/
theorem handlerMakesExactlyOneExchange : Obligations.HandlerMakesExactlyOneExchange := by
  refine ⟨?command, ?call⟩
  case command =>
    intro i s frame hreq
    obtain ⟨a, f, hexp⟩ := handlerExpects_of_request hreq
    obtain ⟨first, nexts, u, hexec, -, -, htrace, hnext⟩ := exec_handler_exchange hexp
    rw [hreq] at htrace
    exact ⟨_, _, first, nexts, hexec, (handlerEnd_trace ..).trans htrace, hnext⟩
  case call =>
    intro o i s u hmem
    simp only [List.mem_cons, Prod.mk.injEq, List.not_mem_nil, or_false] at hmem
    obtain ⟨rfl, rfl⟩ | ⟨rfl, rfl⟩ | ⟨rfl, rfl⟩ | ⟨rfl, rfl⟩ | ⟨rfl, rfl⟩ := hmem
    · exact andThen_transact_trace (by simp) rfl _ s
    · exact andThen_transact_trace (by simp) rfl _ s
    · exact andThen_transact_trace (by simp) rfl _ s
    · exact andThen_transact_trace (by simp) rfl _ s
    · exact andThen_transact_trace (by simp [Operands.boardPayload]) (handlerRequest_updateBoard o) _ s

/-! ### The verdict of an exchange, by the first error that applies (R162) -/

theorem verdict_of_writeFailed (rx : List Byte) (a f : Byte) :
    verdict false rx a f = .error .transportWriteFailure := rfl

theorem verdict_of_silence (a f : Byte) : verdict true [] a f = .error .timeout := rfl

theorem verdict_of_answer {rx : List Byte} (h : rx ≠ []) (a f : Byte) :
    verdict true rx a f = decodeAndVerify rx a f := by
  simp [verdict, h]

/-! ### What a handler makes of a good payload (R163 to R168) -/

theorem handlerStore_of_write {i : Instr} (h : i = .triggerCapture ∨ i = .resetTrigger ∨ i = .updateBoard)
    (p : List Byte) : handlerStore i p = .ok id := by
  obtain rfl | rfl | rfl := h <;> rfl

theorem handlerStore_readStatus_short {p : List Byte} (h : (byteAt p 0).toNat < 2 ∨ p.length < 3) :
    handlerStore .readStatus p = .error .shortPayload := by
  simp only [handlerStore, statusOfPayload, if_pos h, if_true]

theorem handlerStore_readStatus {p : List Byte} (hcount : 2 ≤ (byteAt p 0).toNat) (hlen : 3 ≤ p.length) :
    handlerStore .readStatus p = .ok (State.setStatus (byteAt p 2)) := by
  simp [handlerStore, statusOfPayload, hcount.not_gt, hlen.not_gt]

theorem handlerStore_readData_short {p : List Byte} (h : (byteAt p 0).toNat < 16 ∨ p.length < 17) :
    handlerStore .readData p = .error .shortPayload := by
  simp only [handlerStore, readingOfPayload, Config.minDataBytes, if_pos h, reduceCtorEq,
    if_true, if_false]

theorem handlerStore_readData {p : List Byte} (hcount : 16 ≤ (byteAt p 0).toNat) (hlen : 17 ≤ p.length) :
    handlerStore .readData p = .ok (State.setReading
      { status := byteAt p 2
        plate := #v[byteAt p 5, byteAt p 6, byteAt p 7, byteAt p 8, byteAt p 9, byteAt p 10,
          byteAt p 11, byteAt p 12]
        confidence := byteAt p 14
        errorCode := byteAt p 16 }) := by
  simp [handlerStore, readingOfPayload, Config.minDataBytes, hcount.not_gt, hlen.not_gt]

/-! ### The report (R169): the verdict, then what the handler makes of its payload -/

section
variable {i : Instr} {v : Except Err (List Byte)} {s u : State} {op : Byte}

/-- An error of the exchange or of the payload is all a handler command reports. -/
theorem handlerEnd_of_error {e : Err} (hres : u.res = Results.zero) (hctl : u.ctl = (s.begin op).ctl)
    (h : v.bind (handlerStore i) = .error e) :
    (handlerEnd i v u).res = { Results.zero with err := e.code, exc := e.exc } ∧
      (handlerEnd i v u).ctl = s.ctl.returned op false := by
  have hend : handlerEnd i v u = (u.reportError e).finish := by
    cases v with
    | error e' =>
      cases h
      rfl
    | ok p =>
      have hstore : handlerStore i p = .error e := h
      simp only [handlerEnd, hstore]
  simp [hend, hres, hctl, Control.returned]

/-- A handler command that succeeds writes its own result registers over Ok. -/
theorem handlerEnd_of_ok {p : List Byte} {store : State → State} (h : handlerStore i p = .ok store) :
    handlerEnd i (.ok p) u = (store u.reportOk).finish := by
  simp only [handlerEnd, h]

end

/-- Settles O22: the verdict is decided by the first error of the exchange, the rest by what the handler
makes of the payload. -/
theorem handlerReportsTheFirstError : Obligations.HandlerReportsTheFirstError := by
  intro i s a f hexp
  obtain ⟨first, nexts, u, hexec, hres, hctl, htrace, -⟩ := exec_handler_exchange hexp
  refine ⟨_, _, _, _, hexec, (handlerEnd_trace ..).trans htrace, rfl, rfl, ?_⟩
  generalize bytesRead (.rx 64 .first first :: nexts) = rx
  generalize s.env.takeTx.1 = ok
  intro report
  refine ⟨?writeFailed, ?silence, ?decoderError, ?payload⟩
  case writeFailed =>
    rintro rfl
    exact handlerEnd_of_error hres hctl (by rw [verdict_of_writeFailed]; rfl)
  case silence =>
    rintro rfl rfl
    exact handlerEnd_of_error hres hctl (by rw [verdict_of_silence]; rfl)
  case decoderError =>
    rintro rfl hrx e he
    exact handlerEnd_of_error hres hctl (by rw [verdict_of_answer hrx, he]; rfl)
  case payload =>
    rintro rfl hrx p hp
    have hverdict : verdict true rx a f = .ok p := (verdict_of_answer hrx a f).trans hp
    simp only [report, hverdict]
    refine ⟨?write, ?status, ?reading⟩
    case write =>
      intro hi
      rw [handlerEnd_of_ok (handlerStore_of_write hi p)]
      simp [hres, hctl, Control.returned, Results.zero]
    case status =>
      rintro rfl
      refine ⟨fun hshort => ?_, fun hcount hlen => ?_⟩
      · exact handlerEnd_of_error hres hctl (handlerStore_readStatus_short hshort)
      · rw [handlerEnd_of_ok (handlerStore_readStatus hcount hlen)]
        simp [hres, hctl, Control.returned, Results.zero]
    case reading =>
      rintro rfl
      refine ⟨fun hshort => ?_, fun hcount hlen => ?_⟩
      · exact handlerEnd_of_error hres hctl (handlerStore_readData_short hshort)
      · rw [handlerEnd_of_ok (handlerStore_readData hcount hlen)]
        simp [hres, hctl, Control.returned, Results.zero]

end Sys2Proof.Machine
end

section
/-! The reset (70_reset_and_hazards.md R240): the sequencer at rest, what the reset move does from every
state, and O54 from both. -/

namespace Sys2Proof.Machine

/-! ### The sequencer at rest -/

@[simp] theorem Control.rest_busy : Control.rest.busy = false := rfl
@[simp] theorem Control.rest_done : Control.rest.done = false := rfl
@[simp] theorem Control.rest_valid : Control.rest.valid = false := rfl
@[simp] theorem Control.rest_orch : Control.rest.orch = .idle := rfl
@[simp] theorem Control.rest_midway : Control.rest.midway = false := rfl

/-- The reset move takes itself from the inbox and asks nothing of the state it meets: a command in
progress is no obstacle. -/
theorem step_reset {s : State} {rest : List Move} (hinbox : s.inbox = .reset :: rest) :
    step s = .next { s with inbox := rest }.warmReset := by
  simp only [step, advance, hinbox, applyMove]

/-- Settles O54: the state after reset and the state after the reset move agree in their results,
sequencer and trace, and the sequencer is at rest. -/
theorem resetLeavesTheEngineIdle : Obligations.ResetLeavesTheEngineIdle := by
  refine ⟨?atReset, ?resetMove⟩
  case atReset => simp
  case resetMove =>
    intro s rest hinbox
    exact ⟨_, step_reset hinbox, by simp⟩

end Sys2Proof.Machine
end

section
/-! Decoder and encoder (30_encoding.md R80 to R97): a frame of legal length decodes as its payload does,
bytes that decode are such a frame, each payload layout is read back, and O1 to O4 from these. -/

namespace Sys2Proof

open Machine

/-! ### The ten opcodes (R97) -/

/-- The encoding of a command is its opcode. -/
theorem encode_of_cmd {i : Instr} (h : i.lane = .cmd) : encode i = [i.opcode] := by
  cases i <;> cases h <;> rfl

theorem decodeOpcode_opcode {i : Instr} (h : i.lane = .cmd) : decodeOpcode i.opcode = .ok i := by
  cases i <;> cases h <;> rfl

/-- A value of CMD that is accepted is the opcode of the command it is read as. -/
theorem decodeOpcode_ok {op : Byte} {i : Instr} (h : decodeOpcode op = .ok i) :
    op = i.opcode ∧ i.lane = .cmd := by
  unfold decodeOpcode at h
  repeat' split at h
  all_goals cases h
  all_goals exact ⟨by assumption, rfl⟩

theorem wf_of_cmd {i : Instr} (h : i.lane = .cmd) : i.wf = true := by
  cases i <;> cases h <;> rfl

/-! ### Frames (R80, R81, R88, R91) -/

theorem requestFrame_eq_withChecksum (a f : Byte) (p : List Byte) (t : Tag) :
    requestFrame a f p t = withChecksum (a :: f :: (p ++ tagBytes t)) := rfl

/-- A request of legal length is read by the fields of its payload. -/
theorem decodeRequest_requestFrame {a f : Byte} {p : List Byte} {t : Tag} (hp : p.length ≤ 56) :
    decodeRequest (requestFrame a f p t) = decodeRequestPayload a f p t := by
  have hcheck : checkFrame Config.overhead (withChecksum (a :: f :: (p ++ tagBytes t))) = none :=
    checkFrame_withChecksum (by simp [tagBytes, Config.overhead])
      (by simp [tagBytes]; omega)
  have htag : (p ++ tagBytes t).length - Config.tagLen = p.length := by simp [tagBytes]
  rw [requestFrame_eq_withChecksum]
  simp only [decodeRequest, hcheck, framePayload_withChecksum, htag, byteAt_withChecksum_zero,
    byteAt_withChecksum_one, List.take_left, List.drop_left, tagOf_tagBytes]

/-- A response of legal length is read by the fields of its payload. -/
theorem decodeResponse_responseFrame {a f : Byte} {p : List Byte} (h1 : 1 ≤ p.length)
    (h60 : p.length ≤ 60) :
    decodeResponse (responseFrame a f p) = decodeResponsePayload a f p := by
  have hcheck : checkFrame Config.minFrame (withChecksum (a :: f :: p)) = none :=
    checkFrame_withChecksum (by simp [Config.minFrame]; omega) (by simp; omega)
  simp only [decodeResponse, responseFrame, hcheck, framePayload_withChecksum,
    byteAt_withChecksum_zero, byteAt_withChecksum_one]

/-- Bytes read as a request are the request frame of the fields that are read. -/
theorem decodeRequest_ok {b : List Byte} {i : Instr} (h : decodeRequest b = .ok i) :
    ∃ a f p t, p.length ≤ 56 ∧ b = requestFrame a f p t ∧ decodeRequestPayload a f p t = .ok i := by
  unfold decodeRequest at h
  split at h
  · cases h
  rename_i hcheck
  obtain ⟨hmin, hmax, hcrc⟩ := checkFrame_none hcheck
  simp only [Config.overhead] at hmin
  have hlen := framePayload_length b
  refine ⟨_, _, _, _, ?_, ?_, h⟩
  · simp only [List.length_take, Config.tagLen]
    omega
  · rw [requestFrame_eq_withChecksum, tagBytes_tagOf (by simp only [List.length_drop, Config.tagLen]; omega),
      List.take_append_drop, ← eq_withChecksum (by omega) hcrc]

/-- Bytes read as a response are the response frame of the fields that are read. -/
theorem decodeResponse_ok {b : List Byte} {i : Instr} (h : decodeResponse b = .ok i) :
    ∃ a f p, 1 ≤ p.length ∧ p.length ≤ 60 ∧ b = responseFrame a f p ∧
      decodeResponsePayload a f p = .ok i := by
  unfold decodeResponse at h
  split at h
  · cases h
  rename_i hcheck
  obtain ⟨hmin, hmax, hcrc⟩ := checkFrame_none hcheck
  simp only [Config.minFrame] at hmin
  have hlen := framePayload_length b
  exact ⟨_, _, _, by omega, by omega, eq_withChecksum (by omega) hcrc, h⟩

/-! ### The payload layouts (R83 to R87) -/

@[simp] theorem decodeRequestPayload_rhr (a : Byte) (start qty : Half) (t : Tag) :
    decodeRequestPayload a Config.fcRhr (rhrPayload start qty) t = .ok (.rhrRequest a start qty t) := by
  simp [decodeRequestPayload, rhrPayload, be16]

theorem decodeRequestPayload_wmr {values : List Half} (h : 5 + 2 * values.length ≤ 56) (a : Byte)
    (start : Half) (t : Tag) :
    decodeRequestPayload a Config.fcWmr (wmrPayload start values) t =
      .ok (.wmrRequest a start values t) := by
  have hqty : values.length % 65536 = values.length := Nat.mod_eq_of_lt (by omega)
  have hcount : 2 * values.length % 256 = 2 * values.length := Nat.mod_eq_of_lt (by omega)
  simp [decodeRequestPayload, wmrPayload, be16, hqty, hcount]
  omega

theorem decodeResponsePayload_rhr {data : List Byte} (h : data.length ≤ 255) (a : Byte) :
    decodeResponsePayload a Config.fcRhr (rhrResponsePayload data) = .ok (.rhrResponse a data) := by
  have hcount : data.length % 256 = data.length := Nat.mod_eq_of_lt (by omega)
  simp [decodeResponsePayload, rhrResponsePayload, hcount]

/-- A write payload is fixed by its start and its values once its quantity and byte count fit its
length. -/
theorem wmrPayload_halves {p : List Byte}
    (hlen : p.length = 5 + 2 * (u16be (byteAt p 2) (byteAt p 3)).toNat)
    (hcount : (byteAt p 4).toNat = 2 * (u16be (byteAt p 2) (byteAt p 3)).toNat) :
    wmrPayload (u16be (byteAt p 0) (byteAt p 1)) (halves (p.drop 5)) = p ∧
      5 + 2 * (halves (p.drop 5)).length = p.length := by
  match p, (show 5 ≤ p.length by omega) with
  | p0 :: p1 :: p2 :: p3 :: p4 :: data, _ =>
    simp only [byteAt_cons_zero, byteAt_cons_succ, List.length_cons] at hlen hcount
    obtain ⟨hdata, hvalues⟩ := flatMap_be16_halves (u16be p2 p3).toNat data (by omega)
    have hp4 : BitVec.ofNat 8 (2 * (u16be p2 p3).toNat) = p4 := by simp [← hcount]
    constructor
    · simp [wmrPayload, be16, hvalues, hp4]
      exact hdata
    · simp only [List.drop_succ_cons, List.drop_zero, hvalues, List.length_cons]
      omega

/-- A request payload that is read is that of the instruction it is read as, which is well formed. -/
theorem decodeRequestPayload_ok {a f : Byte} {p : List Byte} {t : Tag} {i : Instr}
    (hp : p.length ≤ 56) (h : decodeRequestPayload a f p t = .ok i) :
    encode i = requestFrame a f p t ∧ i.lane = .request ∧ i.wf = true := by
  simp only [decodeRequestPayload] at h
  split at h
  · rename_i hf
    split at h
    · rename_i hlen
      cases h
      refine ⟨?_, rfl, rfl⟩
      match p, hlen with
      | [_, _, _, _], _ => simp [encode, rhrPayload, be16, hf]
    · cases h
  split at h
  · rename_i hf
    split at h
    · rename_i hlay
      obtain ⟨-, hlen, hcount⟩ := hlay
      cases h
      obtain ⟨hpay, hvalues⟩ := wmrPayload_halves hlen hcount
      refine ⟨by rw [encode, hpay, hf], rfl, ?_⟩
      simp only [Instr.wf, Config.maxPayload, decide_eq_true_eq]
      omega
    · cases h
  · cases h

/-- A response payload that is read is that of the instruction it is read as, which is well formed. -/
theorem decodeResponsePayload_ok {a f : Byte} {p : List Byte} {i : Instr} (h1 : 1 ≤ p.length)
    (hp : p.length ≤ 60) (h : decodeResponsePayload a f p = .ok i) :
    encode i = responseFrame a f p ∧ i.lane = .response ∧ i.wf = true := by
  obtain ⟨p0, rest, rfl⟩ : ∃ p0 rest, p = p0 :: rest := List.exists_cons_of_length_pos h1
  simp only [decodeResponsePayload, byteAt_cons_zero, List.drop_succ_cons, List.drop_zero] at h
  simp only [List.length_cons] at h hp
  have hwf : rest.length + 5 ≤ 64 := by omega
  split at h
  · rename_i hf
    split at h
    · rename_i hcount
      have hp0 : BitVec.ofNat 8 rest.length = p0 := by
        rw [← Nat.add_right_cancel hcount, BitVec.ofNat_toNat, BitVec.setWidth_eq]
      cases h
      exact ⟨by rw [encode, rhrResponsePayload, hp0, hf], rfl, decide_eq_true hwf⟩
    · cases h
  split at h
  · rename_i hf
    split at h
    · rename_i hlen
      cases h
      refine ⟨?_, rfl, rfl⟩
      match rest, hlen with
      | [_, _, _], _ => simp [encode, hf]
    · cases h
  split at h
  · rename_i hf
    cases h
    exact ⟨by rw [encode, hf], rfl, decide_eq_true hwf⟩
  split at h
  · rename_i hf
    cases h
    exact ⟨by rw [encode, hf], rfl, decide_eq_true hwf⟩
  · cases h

/-! ### The round trips -/

/-- Settles O1: a command is its opcode; a frame decodes as its payload does, and each layout is read
back. -/
theorem decodeOfEncodeIsTheInstruction : Obligations.DecodeOfEncodeIsTheInstruction := by
  intro i hwf
  cases hl : i.lane with
  | cmd =>
    rw [encode_of_cmd hl]
    exact decodeOpcode_opcode hl
  | request =>
    cases i <;> simp only [Instr.lane, reduceCtorEq] at hl
    case rhrRequest a start qty t =>
      exact (decodeRequest_requestFrame (by simp)).trans (decodeRequestPayload_rhr a start qty t)
    case wmrRequest a start values t =>
      have hlen : 5 + 2 * values.length ≤ 56 := of_decide_eq_true hwf
      exact (decodeRequest_requestFrame (by simpa using hlen)).trans
        (decodeRequestPayload_wmr hlen a start t)
  | response =>
    cases i <;> simp only [Instr.lane, reduceCtorEq] at hl
    case rhrResponse a data =>
      have hlen : data.length + 5 ≤ 64 := of_decide_eq_true hwf
      exact (decodeResponse_responseFrame (by simp) (by simp; omega)).trans
        (decodeResponsePayload_rhr (by omega) a)
    case wmrAck a p0 p1 p2 p3 => exact decodeResponse_responseFrame (by simp) (by simp)
    case rhrException a code rest =>
      have hlen : rest.length + 5 ≤ 64 := of_decide_eq_true hwf
      exact decodeResponse_responseFrame (by simp) (by simp; omega)
    case wmrException a code rest =>
      have hlen : rest.length + 5 ≤ 64 := of_decide_eq_true hwf
      exact decodeResponse_responseFrame (by simp) (by simp; omega)

/-- Settles O2: bytes that decode are a frame of their fields, and the fields are those of the
instruction. -/
theorem encodeOfDecodedIsTheBytes : Obligations.EncodeOfDecodedIsTheBytes := by
  intro l b i h
  cases l with
  | cmd =>
    match b, h with
    | [op], h =>
      obtain ⟨hop, hl⟩ := decodeOpcode_ok h
      exact ⟨by rw [encode_of_cmd hl, hop], hl, wf_of_cmd hl⟩
  | request =>
    obtain ⟨a, f, p, t, hp, rfl, hpay⟩ := decodeRequest_ok h
    exact decodeRequestPayload_ok hp hpay
  | response =>
    obtain ⟨a, f, p, h1, hp, rfl, hpay⟩ := decodeResponse_ok h
    exact decodeResponsePayload_ok h1 hp hpay

/-- Settles O3: nine words of the spec, evaluated. -/
theorem writtenWordsDecode : Obligations.WrittenWordsDecode := by
  unfold Obligations.WrittenWordsDecode
  decide +kernel

/-- Settles O4: the four requests with literal payloads are the frames as they stand; UPDATE_BOARD's is
the frame of its 13 values. -/
theorem handlerRequestsAreTableFrames : Obligations.HandlerRequestsAreTableFrames :=
  fun o => ⟨rfl, rfl, rfl, rfl, handlerRequest_updateBoard o⟩

end Sys2Proof
end

section
/-! The checksum (40_checksum.md R120 to R124): the shift register is linear over XOR, so that one byte
step is a table entry XOR the high byte; O6, O7 and the command CRC16 (O8) from this. -/

namespace Sys2Proof.Machine

/-! ### Linearity (R121) -/

theorem crcShift_xor (x y : Half) : crcShift (x ^^^ y) = crcShift x ^^^ crcShift y := by
  unfold crcShift
  rw [BitVec.getLsbD_xor, BitVec.ushiftRight_xor_distrib]
  cases x.getLsbD 0 <;> cases y.getLsbD 0
  case true.true =>
    simp only [bne_self_eq_false, Bool.false_eq_true, if_true, if_false]
    rw [BitVec.xor_assoc, BitVec.xor_comm Config.poly, BitVec.xor_assoc, BitVec.xor_self,
      BitVec.xor_zero]
  case true.false => simp [BitVec.xor_assoc, BitVec.xor_comm (y >>> 1)]
  case false.true => simp [BitVec.xor_assoc]
  case false.false => simp

theorem crcShifts_xor : ∀ (n : Nat) (x y : Half),
    crcShifts n (x ^^^ y) = crcShifts n x ^^^ crcShifts n y
  | 0, _, _ => rfl
  | n + 1, x, y => by simp only [crcShifts, crcShift_xor, crcShifts_xor n]

/-- While only zeros are shifted out, the shifts of the register are plain shifts. -/
theorem crcShifts_of_low_zero : ∀ (n : Nat) (x : Half), (∀ i < n, x.getLsbD i = false) →
    crcShifts n x = x >>> n
  | 0, _, _ => rfl
  | n + 1, x, h => by
    have hshift : crcShift x = x >>> 1 := by
      simp only [crcShift, h 0 (Nat.succ_pos n), Bool.false_eq_true, if_false]
    have hlow : ∀ i < n, (x >>> 1).getLsbD i = false := by
      intro i hi
      rw [BitVec.getLsbD_ushiftRight]
      exact h (1 + i) (by omega)
    rw [crcShifts, hshift, crcShifts_of_low_zero n _ hlow, ← BitVec.shiftRight_add,
      Nat.add_comm 1 n]

/-! ### The byte step as a table entry (R123) -/

/-- The part of an accumulator that a byte step only moves: its high byte in place. -/
def highPart (c : Half) : Half := c >>> 8 <<< 8

theorem getLsbD_highPart (c : Half) (i : Nat) :
    (highPart c).getLsbD i = (decide (8 ≤ i) && c.getLsbD i) := by
  by_cases h : 8 ≤ i
  · have hi : 8 + (i - 8) = i := by omega
    by_cases h16 : i < 16
    · simp [highPart, h, h16, hi, h.not_gt]
    · simp [highPart, h16, c.getLsbD_of_ge i (by omega)]
  · simp [highPart, h, Nat.lt_of_not_le h]

theorem highPart_shiftRight (c : Half) : highPart c >>> 8 = c >>> 8 := by
  apply BitVec.eq_of_getLsbD_eq
  intro i _
  simp only [BitVec.getLsbD_ushiftRight, getLsbD_highPart, Nat.le_add_right, decide_true, Bool.true_and]

/-- An accumulator XOR a byte is its high byte in place and its low byte XOR the byte. -/
theorem xor_byte_eq (c : Half) (b : Byte) :
    c ^^^ b.setWidth 16 = highPart c ^^^ (c.setWidth 8 ^^^ b).setWidth 16 := by
  apply BitVec.eq_of_getLsbD_eq
  intro i hi
  simp only [BitVec.getLsbD_xor, BitVec.getLsbD_setWidth, getLsbD_highPart]
  by_cases h : 8 ≤ i
  · simp [h, h.not_gt]
  · simp [h, hi, Nat.lt_of_not_le h]

/-- One byte step is the table entry of the low byte XOR the byte, XOR the high byte moved down. -/
theorem crcByte_eq_table (c : Half) (b : Byte) :
    crcByte c b = (c >>> 8) ^^^ crcByte 0 (c.setWidth 8 ^^^ b) := by
  have hentry : crcByte 0 (c.setWidth 8 ^^^ b) = crcShifts 8 ((c.setWidth 8 ^^^ b).setWidth 16) := by
    simp [crcByte]
  have hlow : ∀ i < 8, (highPart c).getLsbD i = false := by
    intro i hi
    simp [getLsbD_highPart, hi.not_ge]
  rw [crcByte, xor_byte_eq, crcShifts_xor, crcShifts_of_low_zero 8 _ hlow,
    highPart_shiftRight, hentry]

/-- Settles O6: the two methods make the same step on every byte. -/
theorem crcTableMethodAgrees : Obligations.CrcTableMethodAgrees := by
  intro bytes
  have hstep : crcByte =
      fun (c : Half) (b : Byte) => (c >>> 8) ^^^ crcByte 0 (c.setWidth 8 ^^^ b) := by
    funext c b
    exact crcByte_eq_table c b
  rw [crc16, ← hstep]

/-! ### The residue (95_test_vectors.md section 2.1) -/

theorem crcByte_zero_zero : crcByte 0 0#8 = 0#16 := by decide

/-- An accumulator's own low byte moves its high byte down. -/
theorem crcByte_lo8 (c : Half) : crcByte c (lo8 c) = c >>> 8 := by
  rw [crcByte_eq_table, lo8, BitVec.xor_self, crcByte_zero_zero, BitVec.xor_zero]

/-- Settles O7: the checksum's low byte leaves its high byte, which then leaves nothing. -/
theorem crcOfChecksummedBytesIsZero : Obligations.CrcOfChecksummedBytesIsZero := by
  intro b
  have hempty : ∀ c : Half, c >>> 8 >>> 8 = 0 := by
    intro c
    rw [← BitVec.shiftRight_add]
    exact BitVec.ushiftRight_eq_zero (by omega)
  calc crc16 (b ++ le16 (crc16 b))
      = crcByte (crcByte (crc16 b) (lo8 (crc16 b))) (hi8 (crc16 b)) := by
        simp [crc16, le16]
    _ = crcByte (crc16 b >>> 8) (lo8 (crc16 b >>> 8)) := by rw [crcByte_lo8]; rfl
    _ = 0 := by rw [crcByte_lo8, hempty]

/-! ### The command CRC16 (R124) -/

/-- Settles O8: on a legal range the command is the checksum of the range, between start and return. -/
theorem crc16ComputesTheRange : Obligations.Crc16ComputesTheRange := by
  intro s hlegal c
  have hbytes : s.ops.crcBytes = some (s.ops.dbuf.readBytes s.ops.off.toNat s.ops.len.toNat) :=
    if_neg (by simpa using hlegal)
  simp only [exec, execCrc16, crc16Body, begin_ops, hbytes]
  rfl

end Sys2Proof.Machine
end

section
/-! The byte buffers as the statements see them: what a buffer holds after bytes are written over it, and
that writing within 64 bytes keeps its invariant (20_memory.md R70). -/

namespace Sys2Proof.Machine

/-- Bytes written from index 0 on stand over what the buffer held. -/
theorem holdsOver_writeBytes {m : Memory} (h : m.wf = true) (bytes : List Byte) :
    holdsOver (m.writeBytes 0 bytes) bytes m := by
  intro j
  rw [Memory.read_writeBytes j bytes m 0 h]
  simp [byteAt]

@[simp] theorem bufferOk_empty : bufferOk Memory.empty = true := rfl

theorem bufferOk_iff {m : Memory} : bufferOk m = true ↔ m.wf = true ∧ m.within 64 = true := by
  simp [bufferOk]

/-- At most 64 bytes written over a good buffer leave it good. -/
theorem bufferOk_writeBytes {m : Memory} {bytes : List Byte} (h : bufferOk m = true)
    (hlen : bytes.length ≤ 64) : bufferOk (m.writeBytes 0 bytes) = true := by
  obtain ⟨hwf, hin⟩ := bufferOk_iff.1 h
  exact bufferOk_iff.2
    ⟨Memory.writeBytes_wf bytes 0 hwf, Memory.writeBytes_within bytes 0 (by omega) hin⟩

theorem bufferOk_write {m : Memory} {i : Nat} (h : bufferOk m = true) (hi : i < 64) (v : Byte) :
    bufferOk (m.write i v) = true := by
  obtain ⟨hwf, hin⟩ := bufferOk_iff.1 h
  exact bufferOk_iff.2 ⟨Memory.write_wf i v hwf, Memory.write_within hi v hin⟩

theorem buffersOk_iff {s : State} :
    s.buffersOk = true ↔ bufferOk s.ops.dbuf = true ∧ bufferOk s.res.obuf = true ∧
      bufferOk s.work.txbuf = true ∧ bufferOk s.work.rxbuf = true := by
  simp [State.buffersOk, and_assoc]

end Sys2Proof.Machine
end

section
/-! The commands ENCODE, DECODE and READ_FRAME on legal operands (41_frame_codec.md R132, R136,
42_stream_framer.md R155): the whole state each leaves, then O9, O14 and O18; the error codes (O15). -/

namespace Sys2Proof.Machine

/-! ### The way of a command that delivers bytes -/

/-- The results of a command that has put `bytes` into OBUF. -/
def Results.output (bytes : List Byte) : Results :=
  { Results.zero with obuf := Memory.empty.writeBytes 0 bytes, len := BitVec.ofNat 8 bytes.length }

/-- The results of a command that has failed with `e` (60_exceptions.md R214, R221). -/
def Results.error (e : Err) : Results := { Results.zero with err := e.code, exc := e.exc }

/-- A state whose result registers and flags are those of a command with opcode `op` that started in
`s` and has returned with the results `r`, `valid` being `v`. -/
def State.returned (s u : State) (op : Byte) (r : Results) (v : Bool) : State :=
  { u with res := r, ctl := s.ctl.returned op v }

/-! ### ENCODE (R132) -/

/-- ENCODE on a legal length: the frame stands in txbuf and OBUF. -/
theorem exec_encodeFrame_legal {s : State} (h : s.ops.len.toNat ≤ 56) :
    let p := s.ops.dbuf.readBytes 0 s.ops.len.toNat
    let frame := requestFrame s.ops.addr s.ops.func p s.ops.tag
    exec .encodeFrame s = .next (s.returned
      ((s.latchTx frame).setCrc (crc16 (requestBody s.ops.addr s.ops.func p s.ops.tag))) 0x02
      (Results.output frame) false) := by
  have hp : s.ops.encodePayload = some (s.ops.dbuf.readBytes 0 s.ops.len.toNat) :=
    if_neg (by simpa using h)
  have h56 : ¬ Config.maxFrame < s.ops.len.toNat + Config.overhead := by
    simp only [Config.maxFrame, Config.overhead]; omega
  simp only [exec, execEncodeFrame, encodeBody, begin_ops, hp, buildRequest,
    Memory.readBytes_length, h56, if_false]
  rfl

/-- Settles O9: the frame written over an empty OBUF and over txbuf is what the two hold. -/
theorem encodeBuildsTheFrame : Obligations.EncodeBuildsTheFrame := by
  intro s hwf body
  refine ⟨fun hlegal => ?legal, fun hlong => ?long⟩
  case legal =>
    have hlen : (withChecksum body).length = s.ops.len.toNat + 8 := by simp [body]
    refine ⟨_, _, holdsOver_writeBytes Memory.empty_wf (withChecksum body),
      holdsOver_writeBytes hwf (withChecksum body), ?_⟩
    have hrlen : s.ops.len + 8 = BitVec.ofNat 8 (withChecksum body).length := by
      rw [hlen]
      apply BitVec.eq_of_toNat_eq
      simp
    rw [exec_encodeFrame_legal hlegal, hrlen, ← hlen]
    rfl
  case long => exact exec_encodeFrame_misuse (Operands.encodePayload_eq_none_iff.2 hlong)

/-! ### DECODE (R136) -/

/-- What DECODE delivers or reports for the decoder's verdict. -/
def decodeResults : Except Err (List Byte) → Results
  | .ok p => Results.output p
  | .error e => Results.error e

/-- DECODE on a legal length: the verdict on the bytes, and the accumulator of its checksum. -/
theorem exec_decodeFrame_legal {s : State} (h : s.ops.len.toNat ≤ 64) :
    let b := s.ops.dbuf.readBytes 0 s.ops.len.toNat
    exec .decodeFrame s = .next (s.returned (verifyFrame b s.ops.addr s.ops.func s).2 0x03
      (decodeResults (decodeAndVerify b s.ops.addr s.ops.func)) false) := by
  intro b
  have hb : s.ops.decodeBytes = some b := if_neg (by simpa using h)
  simp only [exec, execDecodeFrame, decodeBody, begin_ops, hb, verifyFrame]
  generalize decodeAndVerify b s.ops.addr s.ops.func = v
  by_cases hshort : b.length < Config.minFrame
  · simp only [hshort, if_true]
    cases v <;> rfl
  · simp only [hshort, if_false]
    cases v <;> rfl

/-- The state DECODE's verdict leaves, its accumulator written out. -/
theorem verifyFrame_state (b : List Byte) (ea ef : Byte) (s : State) :
    (verifyFrame b ea ef s).2 = { s with work := { s.work with
      crc := if b.length < 5 then s.work.crc else crc16 (frameBody b) } } := by
  simp only [verifyFrame, Config.minFrame]
  split <;> rfl

/-- Settles O14: the verdict decides the results; the accumulator is that of the verdict's checksum. -/
theorem decodeReportsTheVerdict : Obligations.DecodeReportsTheVerdict := by
  intro s b crc
  have hlen : b.length = s.ops.len.toNat := Memory.readBytes_length ..
  have hcrc : (if b.length < 5 then s.work.crc else crc16 (frameBody b)) = crc := by
    rw [frameBody, hlen]
  refine ⟨fun hlegal => ?legal, fun hlong => ?long⟩
  case legal =>
    have hexec := exec_decodeFrame_legal hlegal
    simp only [verifyFrame_state] at hexec
    refine ⟨fun p hp => ⟨_, holdsOver_writeBytes Memory.empty_wf p, ?_⟩, fun e he => ?_⟩
    · rw [hexec, hcrc, hp]
      rfl
    · rw [hexec, hcrc, he]
      rfl
  case long => exact exec_decodeFrame_misuse (Operands.decodeBytes_eq_none_iff.2 hlong)

/-! ### READ_FRAME (R155) -/

/-- READ_FRAME on a legal length: what one `read_frame` returned stands in OBUF. -/
theorem exec_readFrame_legal {s : State} (h1 : 1 ≤ s.ops.len.toNat) (h64 : s.ops.len.toNat ≤ 64) :
    exec .readFrame s = .next (s.returned (readFrame s.ops.len.toNat (s.begin 0x04)).2 0x04
      (Results.output (readFrame s.ops.len.toNat (s.begin 0x04)).1) false) := by
  have hne : ¬ (s.ops.len = 0 ∨ Config.maxFrame < s.ops.len.toNat) := by
    rintro (h | h)
    · simp [h] at h1
    · simp only [Config.maxFrame] at h
      omega
  have hmax : s.ops.readMaxLen = some s.ops.len.toNat := if_neg hne
  obtain ⟨first, nexts, e, hread, -⟩ := readFrame_spec h1 s.env
  simp only [exec, execReadFrame, readFrameBody, begin_ops, hmax]
  rw [hread (s.begin 0x04) rfl]
  rfl

/-- Settles O18: what `read_frame` can do is said by `readFrame_spec`; the command shows its result. -/
theorem readFrameCommandReturnsWhatArrived : Obligations.ReadFrameCommandReturnsWhatArrived := by
  intro s h1 h64 hwf
  obtain ⟨first, nexts, e, hread, -, hnext, hlen, -, hsilent, hstop, he, he3⟩ :=
    readFrame_spec h1 s.env
  have hpolls : (BitVec.ofNat 2 e).toNat = e := Nat.mod_eq_of_lt (by omega)
  refine ⟨first, nexts, _, _, BitVec.ofNat 2 e, hnext, hlen, holdsOver_writeBytes Memory.empty_wf _,
    holdsOver_writeBytes hwf _, ?stop, hpolls.trans he, ?state⟩
  case stop =>
    rcases hstop with h | h | h | h
    · exact .inl ⟨h, hsilent h⟩
    · exact .inr (.inl h)
    · exact .inr (.inr (.inl h))
    · exact .inr (.inr (.inr (by rw [h]; rfl)))
  case state =>
    rw [exec_readFrame_legal h1 h64, hread (s.begin 0x04) rfl]
    rfl

/-! ### The error codes -/

/-- Settles O15: the codes are the table's by definition, and only one error has a value. -/
theorem errorCodesAreTheTable : Obligations.ErrorCodesAreTheTable := by
  refine ⟨rfl, rfl, rfl, fun _ => rfl, rfl, rfl, rfl, rfl, rfl, rfl, fun _ => rfl, fun e he => ?_⟩
  cases e
  case deviceException code => exact ⟨code, rfl⟩
  all_goals exact absurd rfl he

end Sys2Proof.Machine
end

section
/-! The handler commands on the answers of a device (43_device_handlers.md R160 to R169): the registers an
exchange leaves, what a handler command ends with when its reads are known, and O23 to O27 from both. -/

namespace Sys2Proof.Machine

/-! ### The registers an exchange leaves -/

@[simp] theorem frameBody_requestFrame (a f : Byte) (p : List Byte) (t : Tag) :
    frameBody (requestFrame a f p t) = requestBody a f p t :=
  frameBody_withChecksum _

/-- An exchange of a legal request whose reads are known leaves the registers as the statements list
them. -/
theorem exchangeRegisters_of_work {a f : Byte} {tag : Tag} {p : List Byte} {ok : Bool}
    {evs : List Event} {e : Nat} {s t : State} (hp : p.length ≤ 56) (hrx : (bytesRead evs).length ≤ 64)
    (he : e = emptyReads evs) (he3 : e ≤ 3) (hbuf : s.buffersOk = true)
    (hwork : t.work = exchangeWork s.work a f tag p ok (bytesRead evs) e) :
    exchangeRegisters a f tag (requestFrame a f p tag) evs ok s t := by
  obtain ⟨-, -, htxbuf, hrxbuf⟩ := buffersOk_iff.1 hbuf
  have htxlen : (BitVec.ofNat 7 (requestFrame a f p tag).length).toNat =
      (requestFrame a f p tag).length :=
    Nat.mod_eq_of_lt (by rw [requestFrame_length]; omega)
  have hrxlen : (BitVec.ofNat 7 (bytesRead evs).length).toNat = (bytesRead evs).length :=
    Nat.mod_eq_of_lt (by omega)
  have hpolls : (BitVec.ofNat 2 e).toNat = e := Nat.mod_eq_of_lt (by omega)
  have hcrc : exchangeCrc ok (bytesRead evs) (requestBody a f p tag) =
      crc16 (frameBody (if ok = true ∧ 5 ≤ (bytesRead evs).length then bytesRead evs
        else requestFrame a f p tag)) := by
    unfold exchangeCrc
    split
    · rfl
    · rw [frameBody_requestFrame]
  rw [exchangeRegisters, hwork]
  exact ⟨rfl, rfl, rfl, rfl, htxlen, holdsOver_writeBytes (bufferOk_iff.1 htxbuf).1 _, hrxlen,
    holdsOver_writeBytes (bufferOk_iff.1 hrxbuf).1 _, hpolls.trans he, hcrc⟩

/-- The report of a handler is outside everything an exchange leaves alone. -/
theorem handlerEnd_outsideExchange {s u : State} (i : Instr) (v : Except Err (List Byte))
    (h : outsideExchange s u) : outsideExchange s (handlerEnd i v u) := by
  obtain ⟨hops, hwork, -, -, hinbox, hhost, -⟩ := handlerEnd_frame i v u
  simpa only [outsideExchange, hops, hwork, hinbox, hhost] using h

/-- Settles O23: the exchange of `handler_spec` leaves the registers listed, and the report changes none
of them. -/
theorem handlerFrame : Obligations.HandlerFrame := by
  intro i s t a f frame hbuf hexp hreq hexec
  obtain ⟨first, nexts, e, hall, -, -, hlen, -, -, he, he3⟩ := handler_spec s.env
  obtain ⟨p, hp, hreq', hexec'⟩ := hall i s a f rfl hexp
  obtain rfl : requestFrame a f p s.ops.tag = frame := Option.some.inj (hreq'.symm.trans hreq)
  rw [hexec', Host.Outcome.next.injEq] at hexec
  subst hexec
  obtain ⟨-, hwork, htrace, henv, -, -, horch, -⟩ := handlerEnd_frame i
    (verdict s.env.takeTx.1 (bytesRead (.rx 64 .first first :: nexts)) a f)
    { s.begin i.opcode with
      work := exchangeWork s.work a f s.ops.tag p s.env.takeTx.1
        (bytesRead (.rx 64 .first first :: nexts)) e
      trace := s.trace ++ .tx (requestFrame a f p s.ops.tag) s.env.takeTx.1 ::
        .sleep Config.tGuard :: .rx 64 .first first :: nexts
      env := (Event.rx 64 .first first :: nexts).foldl Env.consume s.env.takeTx.2 }
  exact ⟨handlerEnd_outsideExchange i _ ⟨rfl, rfl, rfl, rfl, rfl, rfl, rfl⟩, horch, _, _, htrace,
    exchangeRegisters_of_work hp hlen he he3 hbuf hwork, henv⟩

/-! ### A handler command whose reads are known -/

section
variable {i : Instr} {s : State} {a f : Byte} {env' : Env} {rx : List Byte} {txs : List Bool}
  {rxs : List (List Byte)}

/-- A handler command whose `read_frame` brings `rx` by the events `evs` reports the verdict on `rx` from a
state `u` after one exchange. -/
theorem exec_handler_of_read {evs : List Event} {e : Nat}
    (h : handlerExpects s.ops i = some (a, f))
    (hr : ∀ u : State, u.env = s.env.takeTx.2 → readFrame 64 u = (rx, afterReads u env' evs rx e)) :
    ∃ u, exec i s = .next (handlerEnd i (verdict s.env.takeTx.1 rx a f) u) ∧
      u.res = Results.zero ∧ u.ctl = (s.begin i.opcode).ctl ∧
      u.trace = s.trace ++ .tx ((handlerRequest s.ops i).getD []) s.env.takeTx.1 :: .sleep 50 :: evs ∧
      u.env = env' ∧ outsideExchange s u := by
  obtain ⟨p, hp, hreq, hexec⟩ := exec_handler h
  rw [transact_eq (s := s.begin i.opcode) hp hr] at hexec
  exact ⟨_, hexec, rfl, rfl, by rw [hreq]; rfl, rfl, rfl, rfl, rfl, rfl, rfl, rfl, rfl⟩

/-- A handler command whose write is taken and whose first read brings a complete frame. -/
theorem exec_handler_answered (h : handlerExpects s.ops i = some (a, f)) (htx : s.env.tx = true :: txs)
    (hrx : s.env.rx = rx :: rxs) (hlen : rx.length ≤ 64) (hc : frameComplete rx = true) :
    ∃ u, exec i s = .next (handlerEnd i (decodeAndVerify rx a f) u) ∧
      u.res = Results.zero ∧ u.ctl = (s.begin i.opcode).ctl ∧
      u.trace = s.trace ++
        [.tx ((handlerRequest s.ops i).getD []) true, .sleep 50, .rx 64 .first rx] ∧
      u.env = { s.env with tx := txs, rx := rxs } ∧ outsideExchange s u := by
  have htake := takeTx_cons htx
  have hne : rx ≠ [] := by
    rintro rfl
    contradiction
  have hread : ∀ u : State, u.env = s.env.takeTx.2 → readFrame 64 u =
      (rx, afterReads u { s.env with tx := txs, rx := rxs } [.rx 64 .first rx] rx 0) := by
    intro u hu
    rw [htake] at hu
    rw [readFrame_whole (by rw [hu]; exact hrx) hlen hc, hu]
  obtain ⟨u, hexec, hu⟩ := exec_handler_of_read h hread
  rw [htake, verdict_of_answer hne] at hexec
  rw [htake] at hu
  exact ⟨u, hexec, hu⟩

/-- The end of a handler command that succeeds: the events and the environment are the exchange's. -/
theorem handlerEnd_of_ok_frame {u : State} {p : List Byte} {store : State → State}
    (hstore : handlerStore i p = .ok store) :
    (handlerEnd i (.ok p) u).trace = u.trace ∧ (handlerEnd i (.ok p) u).env = u.env ∧
      handlerEnd i (.ok p) u = (store u.reportOk).finish := by
  obtain ⟨-, -, htrace, henv, -⟩ := handlerEnd_frame i (.ok p) u
  exact ⟨htrace, henv, handlerEnd_of_ok hstore⟩

end

/-! ### Answers that are complete frames (R151) -/

theorem frameComplete_ack (a p0 p1 p2 p3 : Byte) :
    frameComplete (withChecksum [a, 0x10, p0, p1, p2, p3]) = true := by
  have h5 : Config.minFrame ≤ 8 := by decide
  simp [frameComplete, h5, Config.fcRhr]

/-- A read response is complete when its byte count is its length. -/
theorem frameComplete_rhr {a n : Byte} {data : List Byte} (h : n.toNat = data.length) :
    frameComplete (withChecksum (a :: 0x03 :: n :: data)) = true := by
  simp only [frameComplete, byteAt_withChecksum_one, byteAt_withChecksum_two, withChecksum_length,
    List.length_cons, h, Config.minFrame, Config.rhrOverhead, if_true, Bool.and_eq_true,
    decide_eq_true_eq]
  omega

/-- The verdict on a response from the expected address with the expected function is its payload. -/
theorem decodeAndVerify_good {a f : Byte} {p : List Byte} (hp : 1 ≤ p.length) :
    decodeAndVerify (withChecksum (a :: f :: p)) a f = .ok p := by
  simp [decodeAndVerify_withChecksum hp]

/-- The reading in eight registers of a camera: from registers 0, 2 to 5, 6 and 7 (R166). -/
def readingOf (r0 r2 r3 r4 r5 r6 r7 : Half) : Reading :=
  { status := lo8 r0
    plate := #v[hi8 r2, lo8 r2, hi8 r3, lo8 r3, hi8 r4, lo8 r4, hi8 r5, lo8 r5]
    confidence := lo8 r6
    errorCode := lo8 r7 }

/-! ### The laws of the handlers on good and bad answers -/

/-- Settles O24: an acknowledgement is complete after one read, its payload is not looked at. -/
theorem acknowledgedWriteSucceeds : Obligations.AcknowledgedWriteSucceeds := by
  intro i s a p0 p1 p2 p3 frame txs rxs hi hexp hreq ack htx hrx
  obtain ⟨u, hexec, hres, hctl, htrace, henv, hout⟩ :=
    exec_handler_answered hexp htx hrx (by simp [ack]) (frameComplete_ack a p0 p1 p2 p3)
  rw [decodeAndVerify_good (by simp)] at hexec
  obtain ⟨ht, he, hend⟩ := handlerEnd_of_ok_frame (u := u)
    (handlerStore_of_write hi [p0, p1, p2, p3])
  refine ⟨_, hexec, ?_, ?_, ht.trans ?_, he.trans henv, handlerEnd_outsideExchange i _ hout⟩
  · rw [hend]
    simp [hres, Results.zero]
  · rw [hend]
    simp [hctl, Control.returned]
  · rw [htrace, hreq]
    rfl

/-- Settles O25: the answer's payload is its byte count and one register, whose second byte is the
status. -/
theorem readStatusReturnsTheLowByte : Obligations.ReadStatusReturnsTheLowByte := by
  intro s high low txs rxs answer htx hrx
  obtain ⟨u, hexec, hres, hctl, htrace, henv, hout⟩ :=
    exec_handler_answered (i := .readStatus) rfl htx hrx (by simp [answer])
      (frameComplete_rhr (by rfl))
  rw [decodeAndVerify_good (by simp)] at hexec
  obtain ⟨ht, he, hend⟩ := handlerEnd_of_ok_frame (u := u)
    (handlerStore_readStatus (p := [2, high, low]) (by simp) (by simp))
  refine ⟨_, hexec, ?_, ?_, ht.trans htrace, he.trans henv, handlerEnd_outsideExchange _ _ hout⟩
  · rw [hend]
    simp [hres, Results.zero]
  · rw [hend]
    simp [hctl, Control.returned, Instr.opcode]

/-- Settles O26: the answer's payload is its byte count and the eight registers in order, from whose
bytes the reading is taken. -/
theorem readDataDeliversTheReading : Obligations.ReadDataDeliversTheReading := by
  intro s r0 r1 r2 r3 r4 r5 r6 r7 txs rxs answer htx hrx
  obtain ⟨u, hexec, hres, hctl, htrace, henv, hout⟩ :=
    exec_handler_answered (i := .readData) rfl htx hrx (by simp [answer, be16])
      (frameComplete_rhr (by rfl))
  have hgood : decodeAndVerify answer s.ops.addr 0x03 =
      .ok (16 :: [r0, r1, r2, r3, r4, r5, r6, r7].flatMap be16) := decodeAndVerify_good (by simp)
  rw [hgood] at hexec
  obtain ⟨ht, he, hend⟩ := handlerEnd_of_ok_frame (i := .readData) (u := u)
    (p := 16 :: [r0, r1, r2, r3, r4, r5, r6, r7].flatMap be16)
    (store := State.setReading (readingOf r0 r2 r3 r4 r5 r6 r7)) rfl
  have hctl' : ((u.reportOk.setReading (readingOf r0 r2 r3 r4 r5 r6 r7)).finish).ctl =
      s.ctl.returned 0x12 true := by
    simp [hctl, Control.returned, Instr.opcode]
  refine ⟨_, hexec, ?_, ?_, ?_, ht.trans htrace, he.trans henv, handlerEnd_outsideExchange _ _ hout⟩
  · rw [hend]
    simp [hres, Results.zero, readingOf]
  · rw [hend]
    exact hctl'
  · rw [hend]
    exact stat_of_returned (v := true) (by rw [hctl']; rfl) (by rw [hctl']; rfl) (by rw [hctl']; rfl)

/-- A handler expects one of the two function bytes of the table. -/
theorem handlerExpects_func {o : Operands} {i : Instr} {a f : Byte}
    (h : handlerExpects o i = some (a, f)) : f = 0x03 ∨ f = 0x10 := by
  cases i <;> cases h
  case triggerCapture => exact .inr rfl
  case readStatus => exact .inl rfl
  case readData => exact .inl rfl
  case resetTrigger => exact .inr rfl
  case updateBoard => exact .inr rfl

/-- Settles O27: the exception frame is no complete frame, so three empty reads end the exchange; its
function byte is not the expected one, so the verdict is the device's code. -/
theorem deviceExceptionIsReported : Obligations.DeviceExceptionIsReported := by
  intro i s a f code txs rxs hexp htx hrx
  have hf : f ||| 0x80#8 ≠ f ∧ f ||| 0x80#8 ≠ 0x03#8 := by
    rcases handlerExpects_func hexp with rfl | rfl <;> decide
  have htake := takeTx_cons htx
  have hinc : frameComplete (withChecksum [a, f ||| 0x80, code]) = false := by
    simp [frameComplete, hf.2, Config.ackLen]
  have hread : ∀ u : State, u.env = s.env.takeTx.2 →
      readFrame 64 u = (withChecksum [a, f ||| 0x80, code],
        afterReads u { s.env with tx := txs, rx := rxs }
          (.rx 64 .first (withChecksum [a, f ||| 0x80, code]) :: List.replicate 3 (.rx 59 .next []))
          (withChecksum [a, f ||| 0x80, code]) 3) := by
    intro u hu
    rw [htake] at hu
    rw [readFrame_idle (n := 64) (by simp) (by simp [withChecksum]) hinc (by rw [hu]; exact hrx),
      State.afterEvents, hu]
    simp [afterReads]
  obtain ⟨u, hexec, hres, hctl, -, henv, -⟩ := exec_handler_of_read hexp hread
  have hverdict : verdict s.env.takeTx.1 (withChecksum [a, f ||| 0x80, code]) a f =
      .error (.deviceException code) := by
    rw [htake, verdict_of_answer (by simp [withChecksum]), decodeAndVerify_withChecksum (by simp)]
    simp [hf.1]
  obtain ⟨hr, hc⟩ := handlerEnd_of_error (i := i) (s := s) (op := i.opcode) hres hctl
    (show (verdict s.env.takeTx.1 _ a f).bind (handlerStore i) = _ by rw [hverdict]; rfl)
  obtain ⟨-, -, -, he, -⟩ := handlerEnd_frame i
    (verdict s.env.takeTx.1 (withChecksum [a, f ||| 0x80, code]) a f) u
  exact ⟨_, hexec, hr, stat_of_returned (v := false) (by rw [hc]; rfl) (by rw [hc]; rfl)
    (by rw [hc]; rfl), he.trans henv⟩

end Sys2Proof.Machine
end

section
/-! The wire frames as instructions (30_encoding.md R80 to R87): a request row is one exchange, a response
row joins the receive stream, where the next READ_FRAME finds it; O28 to O30. -/

namespace Sys2Proof.Machine

/-- Settles O28: both request rows are the exchange of their function byte and payload. -/
theorem requestFrameIsOneExchange : Obligations.RequestFrameIsOneExchange := by
  intro i s a f p t hwf hbuf hrow frame
  obtain ⟨hp, hexec⟩ : p.length ≤ 56 ∧ exec i s = .next (transact a f p t s).2 := by
    rcases hrow with ⟨start, qty, rfl, rfl, rfl⟩ | ⟨start, values, rfl, rfl, rfl⟩
    · exact ⟨by simp, rfl⟩
    · have hlen : 5 + 2 * values.length ≤ 56 := of_decide_eq_true hwf
      have hhi : hi8 (BitVec.ofNat 16 values.length) = 0#8 := by
        apply BitVec.eq_of_toNat_eq
        simp [hi8, Nat.shiftRight_eq_div_pow]
        omega
      have hlo : lo8 (BitVec.ofNat 16 values.length) = BitVec.ofNat 8 values.length := by
        apply BitVec.eq_of_toNat_eq
        simp [lo8]
      have hpay : wmrPayload start values = [hi8 start, lo8 start, 0, BitVec.ofNat 8 values.length,
          BitVec.ofNat 8 (2 * values.length)] ++ values.flatMap be16 := by
        simp [wmrPayload, be16, hhi, hlo]
      rw [← hpay]
      exact ⟨by simpa using hlen, rfl⟩
  obtain ⟨first, nexts, e, heq, -, hnext, hlen, -, -, he, he3⟩ := transact_spec s.env
  rw [heq a f p t s hp rfl] at hexec
  refine ⟨_, _, .rx 64 .first first :: nexts, hexec, rfl, by simp [isFrameRead, hnext], rfl, rfl,
    ⟨rfl, rfl, rfl, rfl, rfl, rfl, rfl⟩, ?_, rfl⟩
  exact exchangeRegisters_of_work hp hlen he he3 hbuf rfl

/-- Settles O29: each response row delivers its bytes. -/
theorem responseFrameJoinsTheStream : Obligations.ResponseFrameJoinsTheStream :=
  fun _ _ _ _ _ _ _ _ _ => ⟨rfl, rfl, rfl, rfl⟩

/-- READ_FRAME for 64 bytes on a stream of one complete frame returns it whole. -/
theorem exec_readFrame_whole {s : State} {b : List Byte} (hlen : s.ops.len = 64)
    (hrx : s.env.rx = [b]) (hb : b.length ≤ 64) (hc : frameComplete b = true) :
    ∃ t, exec .readFrame s = .next t ∧ t.res.err = 0 ∧ t.res.len.toNat = b.length ∧
      holdsOver t.res.obuf b Memory.empty ∧ t.env.rx = [] := by
  have h64 : s.ops.len.toNat = 64 := by rw [hlen]; rfl
  have hexec := exec_readFrame_legal (s := s) (by omega) (by omega)
  rw [h64, readFrame_whole (s := s.begin 0x04) hrx hb hc] at hexec
  have hmod : b.length % 256 = b.length := Nat.mod_eq_of_lt (by omega)
  exact ⟨_, hexec, rfl, hmod, holdsOver_writeBytes Memory.empty_wf b, rfl⟩

/-- Settles O30: the row that arrived stands alone in the stream as a complete frame. -/
theorem arrivedFrameIsReadNext : Obligations.ArrivedFrameIsReadNext := by
  intro i s hwf hempty hlen hrow
  obtain ⟨hexec, hb, hc⟩ : exec i s = .next (s.deliver (encode i)) ∧ (encode i).length ≤ 64 ∧
      frameComplete (encode i) = true := by
    rcases hrow with ⟨a, data, rfl⟩ | ⟨a, p0, p1, p2, p3, rfl⟩
    · have hdata : data.length + 5 ≤ 64 := of_decide_eq_true hwf
      refine ⟨rfl, by simp [encode]; omega, frameComplete_rhr (Nat.mod_eq_of_lt (by omega))⟩
    · exact ⟨rfl, by simp [encode], frameComplete_ack a p0 p1 p2 p3⟩
  obtain ⟨t, hread, ht⟩ := exec_readFrame_whole (s := s.deliver (encode i)) hlen (by simp [hempty])
    hb hc
  exact ⟨_, t, hexec, hread, ht⟩

end Sys2Proof.Machine
end

section
/-! What no instruction touches, and what every instruction keeps: the operand latches (10_state.md R21),
the buffers' invariant (20_memory.md R70) and strict turn-taking on the line (R64, R65). -/

namespace Sys2Proof.Machine

/-! ### Turn-taking -/

/-- The events may follow any trace that keeps strict turn-taking. -/
def KeepsTurns (evs : List Event) : Prop := ∀ tr, turnTaking tr = true → turnTaking (tr ++ evs) = true

theorem turnTaking_iff {tr : List Event} :
    turnTaking tr = true ↔
      tr.foldl LinePhase.next .between = .between ∨ tr.foldl LinePhase.next .between = .reading := by
  unfold turnTaking
  cases tr.foldl LinePhase.next .between <;> simp

theorem KeepsTurns.nil : KeepsTurns [] := by
  intro tr h
  rwa [List.append_nil]

theorem KeepsTurns.sleep (ms : Word) : KeepsTurns [.sleep ms] := by
  intro tr h
  rw [turnTaking_iff] at h ⊢
  rw [List.foldl_append]
  rcases h with h | h
  · exact .inl (by rw [h]; rfl)
  · exact .inl (by rw [h]; rfl)

theorem isFrameRead_iff {n : Nat} {evs : List Event} :
    isFrameRead n evs = true ↔
      ∃ first nexts, evs = .rx n .first first :: nexts ∧ nexts.all isNextRead = true := by
  constructor
  · intro h
    match evs, h with
    | .rx m .first first :: nexts, h =>
      obtain ⟨hm, hnext⟩ := Bool.and_eq_true_iff.1 h
      exact ⟨first, nexts, by rw [eq_of_beq hm], hnext⟩
  · rintro ⟨first, nexts, rfl, hnext⟩
    simp [isFrameRead, hnext]

theorem isExchange_iff {frame : List Byte} {evs : List Event} :
    isExchange frame evs = true ↔
      ∃ ok reads, evs = .tx frame ok :: .sleep 50 :: reads ∧ isFrameRead 64 reads = true := by
  constructor
  · intro h
    match evs, h with
    | .tx b ok :: .sleep ms :: reads, h =>
      obtain ⟨h, hread⟩ := Bool.and_eq_true_iff.1 h
      obtain ⟨hb, hms⟩ := Bool.and_eq_true_iff.1 h
      exact ⟨ok, reads, by rw [eq_of_beq hb, eq_of_beq hms], hread⟩
  · rintro ⟨ok, reads, rfl, hread⟩
    simp [isExchange, hread]

/-- NEXT reads after a read leave the line being read. -/
theorem foldl_nexts : ∀ {nexts : List Event}, nexts.all isNextRead = true →
    nexts.foldl LinePhase.next .reading = .reading
  | [], _ => rfl
  | .rx n .next b :: nexts, h => foldl_nexts (nexts := nexts) (by simpa [isNextRead] using h)

theorem foldl_frameRead {n : Nat} {evs : List Event} {ph : LinePhase} (h : isFrameRead n evs = true)
    (hph : ∀ b, ph.next (.rx n .first b) = .reading) : evs.foldl LinePhase.next ph = .reading := by
  obtain ⟨first, nexts, rfl, hnext⟩ := isFrameRead_iff.1 h
  rw [List.foldl_cons, hph, foldl_nexts hnext]

theorem KeepsTurns.frameRead {n : Nat} {evs : List Event} (h : isFrameRead n evs = true) :
    KeepsTurns evs := by
  intro tr htr
  rw [turnTaking_iff] at htr ⊢
  rw [List.foldl_append]
  rcases htr with htr | htr
  · exact .inr (foldl_frameRead h (by rw [htr]; exact fun _ => rfl))
  · exact .inr (foldl_frameRead h (by rw [htr]; exact fun _ => rfl))

theorem KeepsTurns.exchange {frame : List Byte} {evs : List Event} (h : isExchange frame evs = true) :
    KeepsTurns evs := by
  obtain ⟨ok, reads, rfl, hread⟩ := isExchange_iff.1 h
  have hreads := foldl_frameRead (ph := .guarded) hread fun _ => rfl
  intro tr htr
  rw [turnTaking_iff] at htr ⊢
  rw [List.foldl_append]
  rcases htr with htr | htr
  · exact .inr (by rw [htr]; exact hreads)
  · exact .inr (by rw [htr]; exact hreads)

/-! ### What the engine keeps -/

/-- What every activity of the engine keeps, from `s` to `t`: the operand latches, the coming moves and
what the host read; good buffers; strict turn-taking. -/
structure EngineKeeps (s t : State) : Prop where
  ops : t.ops = s.ops
  inbox : t.inbox = s.inbox
  hostData : t.hostData = s.hostData
  buffers : s.buffersOk = true → t.buffersOk = true
  turns : turnTaking s.trace = true → turnTaking t.trace = true

theorem EngineKeeps.refl (s : State) : EngineKeeps s s := ⟨rfl, rfl, rfl, id, id⟩

theorem EngineKeeps.trans {s t u : State} (h : EngineKeeps s t) (h' : EngineKeeps t u) :
    EngineKeeps s u :=
  ⟨h'.ops.trans h.ops, h'.inbox.trans h.inbox, h'.hostData.trans h.hostData,
    h'.buffers ∘ h.buffers, h'.turns ∘ h.turns⟩

/-- An update of registers other than operands and buffers, with port events that keep the turns. -/
theorem EngineKeeps.of_update {s t : State} {evs : List Event} (hops : t.ops = s.ops)
    (hinbox : t.inbox = s.inbox) (hhost : t.hostData = s.hostData)
    (hobuf : bufferOk s.res.obuf = true → bufferOk t.res.obuf = true)
    (htx : bufferOk s.work.txbuf = true → bufferOk t.work.txbuf = true)
    (hrx : bufferOk s.work.rxbuf = true → bufferOk t.work.rxbuf = true)
    (htrace : t.trace = s.trace ++ evs) (hevs : KeepsTurns evs) : EngineKeeps s t := by
  refine ⟨hops, hinbox, hhost, fun h => ?_, fun h => ?_⟩
  · obtain ⟨hd, ho, ht, hr⟩ := buffersOk_iff.1 h
    exact buffersOk_iff.2 ⟨by rwa [hops], hobuf ho, htx ht, hrx hr⟩
  · rw [htrace]
    exact hevs _ h

/-- An update of registers other than operands and buffers, with no port event. -/
theorem EngineKeeps.of_registers {s t : State} (hops : t.ops = s.ops) (hinbox : t.inbox = s.inbox)
    (hhost : t.hostData = s.hostData) (hobuf : t.res.obuf = s.res.obuf)
    (htx : t.work.txbuf = s.work.txbuf) (hrx : t.work.rxbuf = s.work.rxbuf)
    (htrace : t.trace = s.trace) : EngineKeeps s t :=
  ⟨hops, hinbox, hhost, by simp only [buffersOk_iff, hops, hobuf, htx, hrx, imp_self],
    by rw [htrace]; exact id⟩

/-- The working registers an exchange leaves have good buffers. -/
theorem bufferOk_exchangeWork {w : Work} {a f : Byte} {t : Tag} {p : List Byte} {ok : Bool}
    {rx : List Byte} {e : Nat} (hp : p.length ≤ 56) (hrx : rx.length ≤ 64) :
    (bufferOk w.txbuf = true → bufferOk (exchangeWork w a f t p ok rx e).txbuf = true) ∧
      (bufferOk w.rxbuf = true → bufferOk (exchangeWork w a f t p ok rx e).rxbuf = true) :=
  ⟨fun h => bufferOk_writeBytes h (by rw [requestFrame_length]; omega),
    fun h => bufferOk_writeBytes h hrx⟩

/-- An exchange keeps them, whatever it is asked to send: a payload that is too long sends nothing. -/
theorem transact_engineKeeps (a f : Byte) (p : List Byte) (t : Tag) (s : State) :
    EngineKeeps s (transact a f p t s).2 := by
  by_cases hp : p.length ≤ 56
  · obtain ⟨first, nexts, e, heq, -, hnext, hlen, -⟩ := transact_spec s.env
    obtain ⟨htx, hrx⟩ := bufferOk_exchangeWork (w := s.work) (a := a) (f := f) (t := t)
      (ok := s.env.takeTx.1) (e := e) hp hlen
    rw [heq a f p t s hp rfl]
    have hread : isFrameRead 64 (.rx 64 .first first :: nexts) = true := by simp [isFrameRead, hnext]
    exact .of_update rfl rfl rfl id htx hrx rfl
      (.exchange (isExchange_iff.2 ⟨_, _, rfl, hread⟩))
  · have hlong : Config.maxFrame < p.length + Config.overhead := by
      simp only [Config.maxFrame, Config.overhead]; omega
    simp only [transact, buildRequest, if_pos hlong]
    exact .of_registers rfl rfl rfl rfl rfl rfl rfl

theorem andThen_engineKeeps {α : Type} (a f : Byte) (p : List Byte) (t : Tag)
    (g : List Byte → Except Err α) (s : State) : EngineKeeps s (andThen (transact a f p t s) g).2 := by
  rw [andThen_snd]
  exact transact_engineKeeps a f p t s

end Sys2Proof.Machine
end

section
/-! What a command produces: the results it can leave, and one statement for the nine commands other than
CAPTURE_PLATE, each a function of its operands and of the environment (10_state.md R22, R37). -/

namespace Sys2Proof.Machine

/-- The result registers and `valid` that a command can leave (30_encoding.md R97, R98). -/
inductive Produced (i : Instr) : Results → Bool → Prop where
  /-- An error and nothing else (60_exceptions.md R214, R221). -/
  | error (e : Err) : Produced i (Results.error e) false
  /-- Ok and no value: the acknowledged writes. -/
  | done : Produced i Results.zero false
  | crc (c : Half) (h : i = .crc16) : Produced i { Results.zero with crc := c } false
  | output (bytes : List Byte) (h : i ∈ ([.encodeFrame, .decodeFrame, .readFrame] : List Instr))
      (hlen : bytes.length ≤ 64) : Produced i (Results.output bytes) false
  | status (v : Byte) (h : i = .readStatus) : Produced i { Results.zero with status := v } false
  | reading (r : Reading) (h : i = .readData) : Produced i { Results.zero with reading := r } true
  /-- CAPTURE_PLATE has succeeded (44_capture_orchestrator.md R193). -/
  | captured (r : Reading) (attempt : Byte) (h : i = .capturePlate) :
      Produced i { Results.zero with reading := r, orch := 3, attempt := attempt } true
  /-- CAPTURE_PLATE has failed (R193). -/
  | gaveUp (attempt : Byte) (h : i = .capturePlate) :
      Produced i { Results.zero with err := 0x0A, orch := 4, attempt := attempt } false

/-- `s` with the working registers, port events and environment a command leaves. -/
def State.worked (s : State) (w : Work) (evs : List Event) (env' : Env) : State :=
  { s with work := w, trace := s.trace ++ evs, env := env' }

/-- A command that worked as stated and returned keeps what the engine keeps. -/
theorem returned_engineKeeps {i : Instr} {s : State} {w : Work} {evs : List Event} {env' : Env} {op : Byte}
    {r : Results} {v : Bool} (hr : Produced i r v)
    (htx : bufferOk s.work.txbuf = true → bufferOk w.txbuf = true)
    (hrx : bufferOk s.work.rxbuf = true → bufferOk w.rxbuf = true) (hevs : KeepsTurns evs) :
    EngineKeeps s (s.returned (s.worked w evs env') op r v) := by
  have hobuf : bufferOk r.obuf = true := by
    cases hr with
    | output bytes _ hlen => exact bufferOk_writeBytes bufferOk_empty hlen
    | _ => rfl
  exact .of_update rfl rfl rfl (fun _ => hobuf) htx hrx rfl hevs

/-- What a handler makes of a payload: an error, nothing, a status or a reading. -/
theorem handlerStore_cases (i : Instr) (p : List Byte) :
    (∃ e, handlerStore i p = .error e) ∨ handlerStore i p = .ok id ∨
      (i = .readStatus ∧ ∃ v, handlerStore i p = .ok (State.setStatus v)) ∨
      (i = .readData ∧ ∃ r, handlerStore i p = .ok (State.setReading r)) := by
  unfold handlerStore
  split
  · rename_i hi
    cases statusOfPayload p with
    | error e => exact .inl ⟨e, rfl⟩
    | ok v => exact .inr (.inr (.inl ⟨hi, v, rfl⟩))
  split
  · rename_i hi
    cases readingOfPayload p with
    | error e => exact .inl ⟨e, rfl⟩
    | ok r => exact .inr (.inr (.inr ⟨hi, r, rfl⟩))
  · exact .inr (.inl rfl)

/-- The report of a handler, as results: a function of the verdict. -/
theorem handlerEnd_produced (i : Instr) (v : Except Err (List Byte)) :
    ∃ r valid, Produced i r valid ∧ ∀ (s u : State) (op : Byte), u.res = Results.zero →
      u.ctl = (s.begin op).ctl → handlerEnd i v u = s.returned u op r valid := by
  have hend : ∀ (s u : State) (op : Byte), u.res = Results.zero → u.ctl = (s.begin op).ctl →
      u = { u with res := Results.zero, ctl := (s.begin op).ctl } := by
    intro s u op hres hctl
    rw [← hres, ← hctl]
  cases v with
  | error e =>
    refine ⟨_, _, .error e, fun s u op hres hctl => ?_⟩
    rw [hend s u op hres hctl]
    rfl
  | ok p =>
    rcases handlerStore_cases i p with ⟨e, h⟩ | h | ⟨hi, v, h⟩ | ⟨hi, r, h⟩
    · refine ⟨_, _, .error e, fun s u op hres hctl => ?_⟩
      rw [hend s u op hres hctl]
      simp only [handlerEnd, h]
      rfl
    · refine ⟨_, _, .done, fun s u op hres hctl => ?_⟩
      rw [hend s u op hres hctl, handlerEnd_of_ok h]
      rfl
    · refine ⟨_, _, .status v hi, fun s u op hres hctl => ?_⟩
      rw [hend s u op hres hctl, handlerEnd_of_ok h]
      rfl
    · refine ⟨_, _, .reading r hi, fun s u op hres hctl => ?_⟩
      rw [hend s u op hres hctl, handlerEnd_of_ok h]
      rfl

/-- On operands `o` and environment `env` the command leaves results, `valid`, port events and
environment that do not depend on the rest of the state, and keeps what the engine keeps. -/
def Determined (i : Instr) (o : Operands) (env : Env) : Prop :=
  ∃ r v evs env', Produced i r v ∧ ∀ s : State, s.ops = o → s.env = env →
    ∃ w, exec i s = .next (s.returned (s.worked w evs env') i.opcode r v) ∧
      EngineKeeps s (s.returned (s.worked w evs env') i.opcode r v)

section
variable {i : Instr} {o : Operands} {env : Env}

/-- A command that uses no port is determined by its operands, if its results are. -/
theorem Determined.of_silent {r : Results} {v : Bool} (hr : Produced i r v)
    (hexec : ∀ s : State, s.ops = o →
      ∃ w, exec i s = .next (s.returned { s with work := w } i.opcode r v) ∧
        (bufferOk s.work.txbuf = true → bufferOk w.txbuf = true) ∧ w.rxbuf = s.work.rxbuf) :
    Determined i o env := by
  refine ⟨r, v, [], env, hr, fun s ho he => ?_⟩
  obtain ⟨w, hexec, htx, hrx⟩ := hexec s ho
  have hworked : s.worked w [] env = { s with work := w } := by simp [State.worked, ← he]
  exact ⟨w, by rw [hworked, hexec], returned_engineKeeps hr htx (by rw [hrx]; exact id) .nil⟩

/-- A command that refuses its operands is determined by them. -/
theorem Determined.of_misused
    (hexec : ∀ s : State, s.ops = o → exec i s = .next (s.misused i.opcode)) : Determined i o env :=
  .of_silent (.error .callerMisuse) fun s ho => ⟨s.work, hexec s ho, id, rfl⟩

theorem determined_crc16 : Determined .crc16 o env := by
  by_cases h : o.off.toNat + o.len.toNat ≤ 64
  · refine .of_silent (.crc (crc16 (o.dbuf.readBytes o.off.toNat o.len.toNat)) rfl) fun s ho => ?_
    subst ho
    exact ⟨{ s.work with crc := crc16 (s.ops.dbuf.readBytes s.ops.off.toNat s.ops.len.toNat) },
      crc16ComputesTheRange s h, id, rfl⟩
  · refine .of_misused fun s ho => exec_crc16_misuse (Operands.crcBytes_eq_none_iff.2 ?_)
    rw [ho]
    omega

theorem determined_encodeFrame : Determined .encodeFrame o env := by
  by_cases h : o.len.toNat ≤ 56
  · have hlen : (requestFrame o.addr o.func (o.dbuf.readBytes 0 o.len.toNat) o.tag).length ≤ 64 := by
      rw [requestFrame_length, Memory.readBytes_length]
      omega
    refine .of_silent (.output _ (by simp) hlen) fun s ho => ?_
    subst ho
    exact ⟨_, exec_encodeFrame_legal h, fun htx => bufferOk_writeBytes htx hlen, rfl⟩
  · refine .of_misused fun s ho => exec_encodeFrame_misuse (Operands.encodePayload_eq_none_iff.2 ?_)
    rw [ho]
    omega

/-- A payload that the decoder accepts is no longer than its frame. -/
theorem decodeAndVerify_ok_length {b p : List Byte} {ea ef : Byte}
    (h : decodeAndVerify b ea ef = .ok p) : p.length ≤ b.length := by
  unfold decodeAndVerify at h
  repeat' split at h
  all_goals cases h
  rw [framePayload_length]
  omega

theorem determined_decodeFrame : Determined .decodeFrame o env := by
  by_cases h : o.len.toNat ≤ 64
  · have hr : Produced .decodeFrame
        (decodeResults (decodeAndVerify (o.dbuf.readBytes 0 o.len.toNat) o.addr o.func)) false := by
      cases hv : decodeAndVerify (o.dbuf.readBytes 0 o.len.toNat) o.addr o.func with
      | error e => exact .error e
      | ok p =>
        have hlen := decodeAndVerify_ok_length hv
        rw [Memory.readBytes_length] at hlen
        exact .output p (by simp) (by omega)
    refine .of_silent hr fun s ho => ?_
    subst ho
    have hexec := exec_decodeFrame_legal h
    simp only [verifyFrame_state] at hexec
    exact ⟨_, hexec, id, rfl⟩
  · refine .of_misused fun s ho => exec_decodeFrame_misuse (Operands.decodeBytes_eq_none_iff.2 ?_)
    rw [ho]
    omega

theorem determined_readFrame : Determined .readFrame o env := by
  by_cases h : 1 ≤ o.len.toNat ∧ o.len.toNat ≤ 64
  · obtain ⟨h1, h64⟩ := h
    obtain ⟨first, nexts, e, hread, -, hnext, hlen, -⟩ := readFrame_spec h1 env
    have hr := Produced.output (i := .readFrame) _ (by simp) (hlen.trans h64)
    refine ⟨_, _, .rx o.len.toNat .first first :: nexts,
      (Event.rx o.len.toNat .first first :: nexts).foldl Env.consume env, hr, fun s ho he =>
      ⟨(s.latchRx (bytesRead (.rx o.len.toNat .first first :: nexts)) e).work, ?exec, ?keeps⟩⟩
    case exec =>
      subst ho
      rw [exec_readFrame_legal h1 h64, hread (s.begin 0x04) he]
      rfl
    case keeps =>
      exact returned_engineKeeps hr id (fun hrx => bufferOk_writeBytes hrx (hlen.trans h64))
        (.frameRead (isFrameRead_iff.2 ⟨first, nexts, rfl, hnext⟩))
  · refine .of_misused fun s ho => exec_readFrame_misuse (Operands.readMaxLen_eq_none_iff.2 ?_)
    rw [ho]
    by_cases h0 : o.len = 0
    · exact .inl h0
    · have : o.len.toNat ≠ 0 := fun hz => h0 (BitVec.eq_of_toNat_eq hz)
      exact .inr (by omega)

theorem determined_handler {a f : Byte} (h : handlerExpects o i = some (a, f)) :
    Determined i o env := by
  obtain ⟨first, nexts, e, hall, -, hnext, hlen, -⟩ := handler_spec env
  obtain ⟨r, v, hr, hend⟩ := handlerEnd_produced i
    (verdict env.takeTx.1 (bytesRead (.rx 64 .first first :: nexts)) a f)
  have hread : isFrameRead 64 (.rx 64 .first first :: nexts) = true := by simp [isFrameRead, hnext]
  refine ⟨r, v, .tx ((handlerRequest o i).getD []) env.takeTx.1 :: .sleep 50 ::
    .rx 64 .first first :: nexts, (Event.rx 64 .first first :: nexts).foldl Env.consume env.takeTx.2,
    hr, fun s ho he => ?_⟩
  subst ho
  obtain ⟨p, hp, hreq, hexec⟩ := hall i s a f he h
  obtain ⟨htx, hrx⟩ := bufferOk_exchangeWork (w := s.work) (a := a) (f := f) (t := s.ops.tag)
    (ok := env.takeTx.1) (e := e) hp hlen
  refine ⟨_, ?_, returned_engineKeeps hr htx hrx
    (.exchange (isExchange_iff.2 ⟨_, _, rfl, hread⟩))⟩
  rw [hexec, hend s _ i.opcode (by rfl) (by rfl), hreq]
  rfl

end

/-- The nine commands other than CAPTURE_PLATE are determined by their operands and the environment. -/
theorem exec_command {i : Instr} (hl : i.lane = .cmd) (hc : i ≠ .capturePlate) (o : Operands)
    (env : Env) : Determined i o env := by
  cases hexp : handlerExpects o i with
  | some af => exact determined_handler hexp
  | none =>
    cases i <;> simp only [Instr.lane, reduceCtorEq, handlerExpects, ne_eq, not_true_eq_false] at hl hexp hc
    case crc16 => exact determined_crc16
    case encodeFrame => exact determined_encodeFrame
    case decodeFrame => exact determined_decodeFrame
    case readFrame => exact determined_readFrame

end Sys2Proof.Machine
end

section
/-! The turns of the orchestrator (44_capture_orchestrator.md R180 to R193): what one transition can do,
said once, and what every transition keeps. -/

namespace Sys2Proof.Machine

/-! ### Exchanges in a row -/

/-- `u` is `s` after `n` exchanges: the registers that no exchange touches are as before, the trace has
grown by `n` requests and at most 192 events for each. -/
structure Exchanges (n : Nat) (s u : State) : Prop where
  res : u.res = s.res
  ctl : u.ctl = s.ctl
  attempt : u.work.attempt = s.work.attempt
  pollCount : u.work.pollCount = s.work.pollCount
  pollBudget : u.work.pollBudget = s.work.pollBudget
  elapsed : u.work.elapsed = s.work.elapsed
  keeps : EngineKeeps s u
  trace : ∃ evs, u.trace = s.trace ++ evs ∧ countTx evs = n ∧ evs.length ≤ 192 * n

theorem countTx_append (a b : List Event) : countTx (a ++ b) = countTx a + countTx b :=
  List.countP_append

theorem countTx_nexts {evs : List Event} (h : evs.all isNextRead = true) : countTx evs = 0 := by
  rw [countTx, List.countP_eq_zero]
  intro ev hev
  have hnext := List.all_eq_true.1 h ev hev
  cases ev with
  | tx => contradiction
  | rx => simp
  | sleep => contradiction

theorem countTx_exchange {frame : List Byte} {evs : List Event} (h : isExchange frame evs = true) :
    countTx evs = 1 := by
  obtain ⟨ok, reads, rfl, hread⟩ := isExchange_iff.1 h
  obtain ⟨first, nexts, rfl, hnext⟩ := isFrameRead_iff.1 hread
  have hzero := countTx_nexts hnext
  simp only [countTx] at hzero ⊢
  simp [hzero]

theorem Exchanges.of_exchanged {s u : State} (h : exchanged s u) (hk : EngineKeeps s u) :
    Exchanges 1 s u := by
  obtain ⟨-, hres, hctl, -, -, hattempt, hcount, hbudget, helapsed, frame, evs, htrace, hx, hlen⟩ := h
  exact ⟨hres, hctl, hattempt, hcount, hbudget, helapsed, hk, evs, htrace, countTx_exchange hx, hlen⟩

theorem Exchanges.trans {m n : Nat} {s u v : State} (h : Exchanges m s u) (h' : Exchanges n u v) :
    Exchanges (m + n) s v := by
  obtain ⟨evs, htrace, htx, hlen⟩ := h.trace
  obtain ⟨evs', htrace', htx', hlen'⟩ := h'.trace
  refine ⟨h'.res.trans h.res, h'.ctl.trans h.ctl, h'.attempt.trans h.attempt,
    h'.pollCount.trans h.pollCount, h'.pollBudget.trans h.pollBudget, h'.elapsed.trans h.elapsed,
    h.keeps.trans h'.keeps, evs ++ evs', ?_, ?_, ?_⟩
  · rw [htrace', htrace, List.append_assoc]
  · rw [countTx_append, htx, htx']
  · rw [List.length_append]
    omega

theorem triggerCapture_exchanges (a : Byte) (t : Tag) (s : State) :
    Exchanges 1 s (triggerCapture a t s).2 :=
  .of_exchanged (triggerCapture_exchanged a t s) (andThen_engineKeeps ..)

theorem resetTrigger_exchanges (a : Byte) (t : Tag) (s : State) :
    Exchanges 1 s (resetTrigger a t s).2 :=
  .of_exchanged (resetTrigger_exchanged a t s) (andThen_engineKeeps ..)

theorem readStatus_exchanges (a : Byte) (t : Tag) (s : State) : Exchanges 1 s (readStatus a t s).2 :=
  .of_exchanged (readStatus_exchanged a t s) (andThen_engineKeeps ..)

theorem readData_exchanges (a : Byte) (t : Tag) (s : State) : Exchanges 1 s (readData a t s).2 :=
  .of_exchanged (readData_exchanged a t s) (andThen_engineKeeps ..)

/-! ### One transition -/

/-- Everything a transition can lead to, by the state it leaves (R183 to R192). -/
inductive Turn (s : State) : State → Prop where
  | noRetry (ho : s.ctl.orch = .idle) (h : s.ops.maxRetries ≤ s.work.attempt) : Turn s (captureFail s)
  | triggered {u : State} (ho : s.ctl.orch = .idle) (h : s.work.attempt < s.ops.maxRetries)
      (hx : Exchanges 1 s u) : Turn s (u.setOrch .triggered)
  | triggerFailed {u : State} (ho : s.ctl.orch = .idle) (h : s.work.attempt < s.ops.maxRetries)
      (hx : Exchanges 1 s u) : Turn s (triggerFailed u)
  | polling (ho : s.ctl.orch = .triggered) : Turn s (s.clearPolls.setOrch .polling)
  | exhausted (ho : s.ctl.orch = .polling) (h : s.work.pollBudget ≤ s.work.pollCount) :
      Turn s (retryOrFail s)
  | statusError {u : State} (ho : s.ctl.orch = .polling) (h : s.work.pollCount < s.work.pollBudget)
      (hx : Exchanges 1 s.bumpPoll u) : Turn s (retryOrFail u)
  | wait {n : Nat} {u : State} (ho : s.ctl.orch = .polling) (h : s.work.pollCount < s.work.pollBudget)
      (hn : n ≤ 2) (hx : Exchanges n s.bumpPoll u) : Turn s (cadence u)
  | success {u : State} (r : Reading) (ho : s.ctl.orch = .polling)
      (h : s.work.pollCount < s.work.pollBudget) (hx : Exchanges 3 s.bumpPoll u) :
      Turn s (captureSucceed r u)
  | terminal (ho : s.ctl.orch = .succeeded ∨ s.ctl.orch = .failed) : Turn s s

theorem orchIdle_turn {s : State} (ho : s.ctl.orch = .idle) : Turn s (orchIdle s) := by
  unfold orchIdle
  split
  · rename_i h
    exact .noRetry ho h
  · rename_i h
    have hlt := BitVec.not_le.1 h
    have hx := triggerCapture_exchanges s.ops.addr s.ops.tag s
    dsimp only
    split
    · exact .triggered ho hlt hx
    · exact .triggerFailed ho hlt hx

theorem orchPolling_turn {s : State} (ho : s.ctl.orch = .polling) : Turn s (orchPolling s) := by
  unfold orchPolling
  split
  · rename_i h
    exact .exhausted ho h
  rename_i h
  have hlt := BitVec.not_le.1 h
  have hstatus := readStatus_exchanges s.bumpPoll.ops.addr s.bumpPoll.ops.tag s.bumpPoll
  unfold pollOnce
  dsimp only
  split
  case h_2 => exact .wait ho hlt (by omega) hstatus
  split
  · unfold fetchReading
    dsimp only
    have hdata := fun a t => hstatus.trans (readData_exchanges a t _)
    split
    · exact .success _ ho hlt ((hdata _ _).trans (resetTrigger_exchanges _ _ _))
    · exact .wait ho hlt (by omega) (hdata _ _)
  split
  · exact .statusError ho hlt hstatus
  · exact .wait ho hlt (by omega) hstatus

theorem orchStep_turn (s : State) : Turn s (orchStep s) := by
  unfold orchStep
  split
  case h_1 ho => exact orchIdle_turn ho
  case h_2 ho => exact .polling ho
  case h_3 ho => exact orchPolling_turn ho
  case h_4 ho => exact .terminal (.inl ho)
  case h_5 ho => exact .terminal (.inr ho)

/-! ### The retry step (R184, R190, R192) -/

/-- The state after one more failed cycle, its backoff slept. -/
def State.backedOff (s : State) : State := sleep (backoff (s.work.attempt + 1)) s.bumpAttempt

section
variable {s : State}

theorem triggerFailed_of_lt (h : s.work.attempt + 1 < s.ops.maxRetries) :
    triggerFailed s = s.backedOff.setOrch .idle := if_pos h

theorem triggerFailed_of_not_lt (h : ¬ s.work.attempt + 1 < s.ops.maxRetries) :
    triggerFailed s = captureFail s.backedOff := if_neg h

theorem retryOrFail_of_lt (h : s.work.attempt + 1 < s.ops.maxRetries) :
    retryOrFail s = s.backedOff.setOrch .idle := if_pos h

theorem retryOrFail_of_not_lt (h : ¬ s.work.attempt + 1 < s.ops.maxRetries) :
    retryOrFail s = captureFail s.bumpAttempt := if_neg h

end

theorem triggerFailed_cases (s : State) :
    (s.work.attempt + 1 < s.ops.maxRetries ∧ triggerFailed s = s.backedOff.setOrch .idle) ∨
      (s.ops.maxRetries ≤ s.work.attempt + 1 ∧ triggerFailed s = captureFail s.backedOff) := by
  by_cases h : s.work.attempt + 1 < s.ops.maxRetries
  · exact .inl ⟨h, triggerFailed_of_lt h⟩
  · exact .inr ⟨BitVec.not_lt.1 h, triggerFailed_of_not_lt h⟩

theorem retryOrFail_cases (s : State) :
    (s.work.attempt + 1 < s.ops.maxRetries ∧ retryOrFail s = s.backedOff.setOrch .idle) ∨
      (s.ops.maxRetries ≤ s.work.attempt + 1 ∧ retryOrFail s = captureFail s.bumpAttempt) := by
  by_cases h : s.work.attempt + 1 < s.ops.maxRetries
  · exact .inl ⟨h, retryOrFail_of_lt h⟩
  · exact .inr ⟨BitVec.not_lt.1 h, retryOrFail_of_not_lt h⟩

/-! ### What every transition keeps -/

theorem setOrch_engineKeeps (o : Orch) (s : State) : EngineKeeps s (s.setOrch o) :=
  .of_registers rfl rfl rfl rfl rfl rfl rfl

theorem bumpAttempt_engineKeeps (s : State) : EngineKeeps s s.bumpAttempt :=
  .of_registers rfl rfl rfl rfl rfl rfl rfl

theorem bumpPoll_engineKeeps (s : State) : EngineKeeps s s.bumpPoll :=
  .of_registers rfl rfl rfl rfl rfl rfl rfl

theorem captureFail_engineKeeps (s : State) : EngineKeeps s (captureFail s) :=
  .of_registers rfl rfl rfl rfl rfl rfl rfl

theorem captureSucceed_engineKeeps (r : Reading) (s : State) : EngineKeeps s (captureSucceed r s) :=
  .of_registers rfl rfl rfl rfl rfl rfl rfl

theorem backedOff_engineKeeps (s : State) : EngineKeeps s s.backedOff :=
  .of_update rfl rfl rfl id id id rfl (.sleep _)

theorem cadence_engineKeeps (s : State) : EngineKeeps s (cadence s) :=
  .of_update rfl rfl rfl id id id rfl (.sleep _)

theorem triggerFailed_engineKeeps (s : State) : EngineKeeps s (triggerFailed s) := by
  rcases triggerFailed_cases s with ⟨-, h⟩ | ⟨-, h⟩ <;> rw [h]
  · exact (backedOff_engineKeeps s).trans (setOrch_engineKeeps ..)
  · exact (backedOff_engineKeeps s).trans (captureFail_engineKeeps _)

theorem retryOrFail_engineKeeps (s : State) : EngineKeeps s (retryOrFail s) := by
  rcases retryOrFail_cases s with ⟨-, h⟩ | ⟨-, h⟩ <;> rw [h]
  · exact (backedOff_engineKeeps s).trans (setOrch_engineKeeps ..)
  · exact (bumpAttempt_engineKeeps s).trans (captureFail_engineKeeps _)

theorem Turn.engineKeeps {s t : State} (h : Turn s t) : EngineKeeps s t := by
  cases h with
  | noRetry => exact captureFail_engineKeeps s
  | triggered _ _ hx => exact hx.keeps.trans (setOrch_engineKeeps ..)
  | triggerFailed _ _ hx => exact hx.keeps.trans (triggerFailed_engineKeeps _)
  | polling => exact .of_registers rfl rfl rfl rfl rfl rfl rfl
  | exhausted => exact retryOrFail_engineKeeps s
  | statusError _ _ hx =>
    exact (bumpPoll_engineKeeps s).trans (hx.keeps.trans (retryOrFail_engineKeeps _))
  | wait _ _ _ hx => exact (bumpPoll_engineKeeps s).trans (hx.keeps.trans (cadence_engineKeeps _))
  | success r _ _ hx =>
    exact (bumpPoll_engineKeeps s).trans (hx.keeps.trans (captureSucceed_engineKeeps r _))
  | terminal => exact .refl s

theorem orchStep_engineKeeps (s : State) : EngineKeeps s (orchStep s) := (orchStep_turn s).engineKeeps

theorem captureLoop_engineKeeps (n : Nat) (s : State) : EngineKeeps s (captureLoop n s) :=
  captureLoop_keeps (P := EngineKeeps s) (fun u h _ => h.trans (orchStep_engineKeeps u)) n s (.refl s)

end Sys2Proof.Machine
end

section
/-! Single turns of the engine in CAPTURE_PLATE (44_capture_orchestrator.md R183 to R192, log 9): the turn
as one transition, the backoff it sleeps, the answers written down for a poll; O37 to O41 and O43. -/

namespace Sys2Proof.Machine

/-- A turn of the engine inside CAPTURE_PLATE is one transition. -/
theorem step_engine_midway {s : State} {rest : List Move} (hinbox : s.inbox = .engine :: rest)
    (hbusy : s.ctl.busy = true) (hmid : s.ctl.midway = true) :
    step s = .next (orchStep { s with inbox := rest }) := by
  simp only [step, advance, hinbox, applyMove, engineTurn, hbusy, hmid, if_true]

/-- Settles O37: the transition out of `Triggered` tests nothing. -/
theorem triggeredEntersPolling : Obligations.TriggeredEntersPolling := by
  intro s rest hinbox hbusy hmid horch
  rw [step_engine_midway hinbox hbusy hmid]
  simp only [orchStep, horch]
  rfl

/-- A turn at `Polling` with the budget used up is the retry step. -/
theorem orchStep_exhausted {s : State} (ho : s.ctl.orch = .polling)
    (h : s.work.pollBudget ≤ s.work.pollCount) : orchStep s = retryOrFail s := by
  simp only [orchStep, ho, orchPolling, if_pos h]

/-- Settles O39: an exhausted budget leads to the retry step, whose test decides. -/
theorem exhaustedPollingRetriesOrFails : Obligations.ExhaustedPollingRetriesOrFails := by
  intro s rest hinbox hbusy hmid horch hspent k
  have hstep : step s = .next (retryOrFail { s with inbox := rest }) := by
    rw [step_engine_midway hinbox hbusy hmid,
      orchStep_exhausted (s := { s with inbox := rest }) horch hspent]
  refine ⟨fun hretry => ?retry, fun hlast => ?last⟩
  case retry =>
    rw [hstep]
    exact congrArg Host.Outcome.next (if_pos hretry)
  case last =>
    rw [hstep]
    exact congrArg Host.Outcome.next (if_neg (BitVec.not_lt.2 hlast))

/-! ### The listed transitions (R180) -/

theorem triggerFailed_orch (s : State) :
    (triggerFailed s).ctl.orch = .idle ∨ (triggerFailed s).ctl.orch = .failed := by
  rcases triggerFailed_cases s with ⟨-, h⟩ | ⟨-, h⟩
  · exact .inl (by rw [h]; rfl)
  · exact .inr (by rw [h]; rfl)

theorem retryOrFail_orch (s : State) :
    (retryOrFail s).ctl.orch = .idle ∨ (retryOrFail s).ctl.orch = .failed := by
  rcases retryOrFail_cases s with ⟨-, h⟩ | ⟨-, h⟩
  · exact .inl (by rw [h]; rfl)
  · exact .inr (by rw [h]; rfl)

/-- The transitions of R180, a state that stays as it is among them. -/
def listedTransitions : List (Orch × Orch) :=
  [(.idle, .failed), (.idle, .triggered), (.idle, .idle), (.triggered, .polling),
    (.polling, .polling), (.polling, .succeeded), (.polling, .idle), (.polling, .failed),
    (.succeeded, .succeeded), (.failed, .failed)]

theorem Turn.listed {s t : State} (h : Turn s t) : (s.ctl.orch, t.ctl.orch) ∈ listedTransitions := by
  cases h with
  | noRetry ho => simp [listedTransitions, ho, captureFail]
  | triggered ho => simp [listedTransitions, ho]
  | @triggerFailed u ho =>
    rcases triggerFailed_orch u with h | h
    · simp [listedTransitions, ho, h]
    · simp [listedTransitions, ho, h]
  | polling ho => simp [listedTransitions, ho]
  | exhausted ho =>
    rcases retryOrFail_orch s with h | h
    · simp [listedTransitions, ho, h]
    · simp [listedTransitions, ho, h]
  | @statusError u ho =>
    rcases retryOrFail_orch u with h | h
    · simp [listedTransitions, ho, h]
    · simp [listedTransitions, ho, h]
  | wait ho _ _ hx => simp [listedTransitions, ho, cadence, hx.ctl]
  | success _ ho => simp [listedTransitions, ho, captureSucceed]
  | terminal ho =>
    rcases ho with ho | ho
    · simp [listedTransitions, ho]
    · simp [listedTransitions, ho]

/-- Settles O41: a turn is one transition, which is a listed one; out of a terminal state there is
none. -/
theorem orchestratorTransitionsAreTheListed : Obligations.OrchestratorTransitionsAreTheListed := by
  intro s t rest hinbox hbusy hmid hstep
  rw [step_engine_midway hinbox hbusy hmid, Host.Outcome.next.injEq] at hstep
  subst hstep
  refine ⟨(orchStep_turn { s with inbox := rest }).listed, fun hterm => ?_⟩
  rcases hterm with h | h
  · simp only [orchStep, h]
  · simp only [orchStep, h]

/-! ### The backoff (R190) -/

theorem backoff_eq (k : Byte) : backoff k = BitVec.ofNat 32 (100 * 2 ^ k.toNat) := rfl

theorem toNat_attempt_succ {a m : Byte} (h : a < m) : (a + 1).toNat = a.toNat + 1 := by
  bv_omega

/-- Settles O43: `100 × 2^25` is below `2^32`, and the first timeout is defined as the longer one. -/
theorem backoffDoublesAndTimeoutsAreOrdered : Obligations.BackoffDoublesAndTimeoutsAreOrdered := by
  refine ⟨fun k hk => ?_, by decide, ?_⟩
  · have hpow : 2 ^ k.toNat ≤ 2 ^ 25 := Nat.pow_le_pow_right (by omega) hk
    rw [backoff_eq, BitVec.toNat_ofNat]
    exact Nat.mod_eq_of_lt (by omega)
  · simp only [ReadClass.idleTimeout, Config.tFirst]
    omega

/-! ### The turn at `Idle` (R183, R184) -/

/-- With no retry left the command fails. -/
theorem orchStep_idle_spent {s : State} (ho : s.ctl.orch = .idle)
    (h : s.ops.maxRetries ≤ s.work.attempt) : orchStep s = captureFail s := by
  simp only [orchStep, ho, orchIdle, if_pos h]

section
variable {s : State} (ho : s.ctl.orch = .idle) (h : s.work.attempt < s.ops.maxRetries)
include ho h

/-- With a retry left and the trigger acknowledged, `Triggered` follows. -/
theorem orchStep_idle_ok (ht : (triggerCapture s.ops.addr s.ops.tag s).1 = .ok ()) :
    orchStep s = (triggerCapture s.ops.addr s.ops.tag s).2.setOrch .triggered := by
  simp only [orchStep, ho, orchIdle, if_neg (BitVec.not_le.2 h), ht]

/-- With a retry left and a trigger that fails, the failed cycle is counted. -/
theorem orchStep_idle_error {e : Err} (ht : (triggerCapture s.ops.addr s.ops.tag s).1 = .error e) :
    orchStep s = triggerFailed (triggerCapture s.ops.addr s.ops.tag s).2 := by
  simp only [orchStep, ho, orchIdle, if_neg (BitVec.not_le.2 h), ht]

end

/-- Settles O38: the exchange leaves all but the trace; its outcome decides between `Triggered` and the
backoff, after which the attempts are tested. -/
theorem idleTriggersOrBacksOff : Obligations.IdleTriggersOrBacksOff := by
  intro s rest hinbox hbusy hmid horch hleft hlimit triggered
  obtain ⟨ok, reads, hok, hreads, hverdict, htrace⟩ := triggerCapture_wire { s with inbox := rest } s.ops
  have hx := triggerCapture_exchanges s.ops.addr s.ops.tag { s with inbox := rest }
  refine ⟨_, ok, reads, step_engine_midway hinbox hbusy hmid, hreads, hok, hverdict, ?_⟩
  intro evs
  refine ⟨fun htrig => ?acknowledged, fun e htrig => ?failed⟩
  case acknowledged =>
    rw [orchStep_idle_ok (s := { s with inbox := rest }) horch hleft htrig]
    exact ⟨by rw [setOrch_ctl, hx.ctl], by rw [setOrch_res, hx.res]; rfl, hx.attempt, htrace⟩
  case failed =>
    have hsucc := toNat_attempt_succ hleft
    have hctl : { s.ctl with orch := Orch.idle } = s.ctl := by rw [← horch]
    rw [orchStep_idle_error (s := { s with inbox := rest }) horch hleft htrig]
    generalize (triggerCapture s.ops.addr s.ops.tag { s with inbox := rest }).2 = u at hx htrace
    have hu : u.work.attempt = s.work.attempt := hx.attempt
    have hattempt : u.backedOff.work.attempt.toNat = s.work.attempt.toNat + 1 := by
      rw [← hsucc, ← hu]
      rfl
    have hbtrace : u.backedOff.trace =
        s.trace ++ evs ++ [.sleep (BitVec.ofNat 32 (100 * 2 ^ (s.work.attempt.toNat + 1)))] := by
      rw [← hsucc, ← backoff_eq, ← hu, ← htrace]
      rfl
    have hmax : u.ops.maxRetries = s.ops.maxRetries := by rw [hx.keeps.ops]
    rcases triggerFailed_cases u with ⟨hlt, heq⟩ | ⟨hle, heq⟩
    · rw [hmax, hu, BitVec.lt_def, hsucc] at hlt
      rw [heq]
      refine ⟨hattempt, hbtrace, fun _ => ⟨?_, ?_⟩, fun hle => by omega⟩
      · exact (congrArg (fun c => { c with orch := Orch.idle }) hx.ctl).trans hctl
      · exact congrArg (fun r => { r with orch := 0 }) hx.res
    · rw [hmax, hu, BitVec.le_def, hsucc] at hle
      rw [heq]
      refine ⟨hattempt, hbtrace, fun hlt => by omega, fun _ => ⟨rfl, rfl, rfl, ?_⟩⟩
      exact congrArg (fun r => { r with orch := 4, attempt := u.work.attempt + 1, err := 0x0A, exc := 0 })
        hx.res

/-! ### The turn at `Polling` (R186 to R189) -/

/-- A turn at `Polling` with polls left is one poll, counted first. -/
theorem orchStep_poll {s : State} (ho : s.ctl.orch = .polling)
    (h : s.work.pollCount < s.work.pollBudget) : orchStep s = pollOnce s.bumpPoll := by
  simp only [orchStep, ho, orchPolling, if_neg (BitVec.not_le.2 h)]

section
variable {s : State} {o : Operands} (ho : s.ops = o)
include ho

/-! What follows a poll, by the status it finds. -/

theorem pollOnce_error {e : Err} (h : (readStatus o.addr o.tag s).1 = .error e) :
    pollOnce s = cadence (readStatus o.addr o.tag s).2 := by
  simp only [pollOnce, ho, h]

theorem pollOnce_statusError (h : (readStatus o.addr o.tag s).1 = .ok 3) :
    pollOnce s = retryOrFail (readStatus o.addr o.tag s).2 := by
  simp only [pollOnce, ho, h]
  rfl

theorem pollOnce_other {v : Byte} (h : (readStatus o.addr o.tag s).1 = .ok v) (h2 : v ≠ 2)
    (h3 : v ≠ 3) : pollOnce s = cadence (readStatus o.addr o.tag s).2 := by
  simp only [pollOnce, ho, h]
  exact (if_neg h2).trans (if_neg h3)

theorem pollOnce_ok (h : (readStatus o.addr o.tag s).1 = .ok 2) :
    pollOnce s = fetchReading (readStatus o.addr o.tag s).2 := by
  simp only [pollOnce, ho, h]
  rfl

/-! What follows the read of the data. -/

theorem fetchReading_error {e : Err} (h : (readData o.addr o.tag s).1 = .error e) :
    fetchReading s = cadence (readData o.addr o.tag s).2 := by
  simp only [fetchReading, ho, h]

theorem fetchReading_ok {r : Reading} (h : (readData o.addr o.tag s).1 = .ok r) :
    fetchReading s =
      captureSucceed r (resetTrigger o.addr o.tag (readData o.addr o.tag s).2).2 := by
  have hops := (readData_exchanges o.addr o.tag s).keeps.ops.trans ho
  simp only [fetchReading, ho, h, hops]

end

end Sys2Proof.Machine
end

section
/-! Handler calls whose answer is written down in the environment: what they say, the events of their one
exchange and the environment they leave. -/

namespace Sys2Proof.Machine

/-- `u` is `s` after one exchange of `frame`, in which the write found `ok` and the one read found `c`,
and which left `txs` and `rxs` of the environment. -/
structure Answered (frame : List Byte) (ok : Bool) (c : List Byte) (txs : List Bool)
    (rxs : List (List Byte)) (s u : State) : Prop where
  exchanges : Exchanges 1 s u
  trace : u.trace = s.trace ++ [.tx frame ok, .sleep 50, .rx 64 .first c]
  env : u.env = { s.env with tx := txs, rx := rxs }

section
variable {s : State} {ok : Bool} {txs : List Bool} {c : List Byte} {rxs : List (List Byte)} {α : Type}

/-- A handler call on written answers says what its exchange's verdict says of the answer. -/
theorem andThen_transact_answered {a f : Byte} {p : List Byte} {t : Tag} (hp : p.length ≤ 56)
    (g : List Byte → Except Err α) (htx : s.env.tx = ok :: txs) (hrx : s.env.rx = c :: rxs)
    (hc : c.length ≤ 64) (hcc : c = [] ∨ frameComplete c = true) :
    (andThen (transact a f p t s) g).1 = (verdict ok c a f).bind g ∧
      Answered (requestFrame a f p t) ok c txs rxs s (andThen (transact a f p t s) g).2 := by
  have hx : Exchanges 1 s (transact a f p t s).2 :=
    .of_exchanged (transact_exchanged hp s) (transact_engineKeeps a f p t s)
  have hs := transact_scripted (a := a) (f := f) (t := t) hp htx hrx hc hcc
  rw [andThen_fst, andThen_snd]
  exact ⟨by rw [hs], hx, by rw [hs], by rw [hs]⟩

variable (o : Operands) (htx : s.env.tx = ok :: txs) (hrx : s.env.rx = c :: rxs)
  (hc : c.length ≤ 64) (hcc : c = [] ∨ frameComplete c = true)
include htx hrx hc hcc

theorem triggerCapture_answered :
    (triggerCapture o.addr o.tag s).1 = (verdict ok c o.addr 0x10).bind (fun _ => .ok ()) ∧
      Answered ((handlerRequest o .triggerCapture).getD []) ok c txs rxs s
        (triggerCapture o.addr o.tag s).2 :=
  andThen_transact_answered (by simp) _ htx hrx hc hcc

theorem resetTrigger_answered :
    Answered ((handlerRequest o .resetTrigger).getD []) ok c txs rxs s (resetTrigger o.addr o.tag s).2 :=
  (andThen_transact_answered (p := wmrPayload Config.regTrigger [0]) (by simp) (fun _ => .ok ()) htx hrx
    hc hcc).2

theorem readStatus_answered :
    (readStatus o.addr o.tag s).1 = (verdict ok c o.addr 0x03).bind statusOfPayload ∧
      Answered ((handlerRequest o .readStatus).getD []) ok c txs rxs s (readStatus o.addr o.tag s).2 :=
  andThen_transact_answered (by simp) _ htx hrx hc hcc

theorem readData_answered :
    (readData o.addr o.tag s).1 = (verdict ok c o.addr 0x03).bind readingOfPayload ∧
      Answered ((handlerRequest o .readData).getD []) ok c txs rxs s (readData o.addr o.tag s).2 :=
  andThen_transact_answered (by simp) _ htx hrx hc hcc

end

/-! ### Good answers -/

/-- The verdict on a response from the right address with the right function, after a write taken. -/
theorem verdict_good {a f : Byte} {p : List Byte} (hp : 1 ≤ p.length) :
    verdict true (withChecksum (a :: f :: p)) a f = .ok p := by
  rw [verdict_of_answer (by simp [withChecksum]), decodeAndVerify_good hp]

section
variable {s : State} {txs : List Bool} {rxs : List (List Byte)} (o : Operands)
  (htx : s.env.tx = true :: txs)
include htx

/-- A trigger that is acknowledged. -/
theorem triggerCapture_acknowledged {p0 p1 p2 p3 : Byte}
    (hrx : s.env.rx = withChecksum [o.addr, 0x10, p0, p1, p2, p3] :: rxs) :
    (triggerCapture o.addr o.tag s).1 = .ok () ∧
      Answered ((handlerRequest o .triggerCapture).getD []) true
        (withChecksum [o.addr, 0x10, p0, p1, p2, p3]) txs rxs s (triggerCapture o.addr o.tag s).2 := by
  obtain ⟨hv, hx⟩ := triggerCapture_answered o htx hrx (by simp) (.inr (frameComplete_ack ..))
  rw [verdict_good (by simp)] at hv
  exact ⟨hv, hx⟩

/-- A trigger that nothing answers. -/
theorem triggerCapture_silent (hrx : s.env.rx = [] :: rxs) :
    (triggerCapture o.addr o.tag s).1 = .error .timeout ∧
      Answered ((handlerRequest o .triggerCapture).getD []) true [] txs rxs s
        (triggerCapture o.addr o.tag s).2 :=
  triggerCapture_answered o htx hrx (by simp) (.inl rfl)

/-- A poll that is answered with the status `v`. -/
theorem readStatus_polled {v : Byte} (hrx : s.env.rx = withChecksum [o.addr, 0x03, 2, 0, v] :: rxs) :
    (readStatus o.addr o.tag s).1 = .ok v ∧
      Answered ((handlerRequest o .readStatus).getD []) true (withChecksum [o.addr, 0x03, 2, 0, v])
        txs rxs s (readStatus o.addr o.tag s).2 := by
  obtain ⟨hv, hx⟩ := readStatus_answered o htx hrx (by simp) (.inr (frameComplete_rhr (by rfl)))
  rw [verdict_good (by simp)] at hv
  exact ⟨hv, hx⟩

/-- A read of the data that is answered with eight registers. -/
theorem readData_fetched {r0 r1 r2 r3 r4 r5 r6 r7 : Half}
    (hrx : s.env.rx = withChecksum
      ([o.addr, 0x03, 16] ++ [r0, r1, r2, r3, r4, r5, r6, r7].flatMap be16) :: rxs) :
    (readData o.addr o.tag s).1 = .ok (readingOf r0 r2 r3 r4 r5 r6 r7) ∧
      Answered ((handlerRequest o .readData).getD []) true
        (withChecksum ([o.addr, 0x03, 16] ++ [r0, r1, r2, r3, r4, r5, r6, r7].flatMap be16))
        txs rxs s (readData o.addr o.tag s).2 := by
  obtain ⟨hv, hx⟩ := readData_answered o htx hrx (by simp [be16]) (.inr (frameComplete_rhr (by rfl)))
  have hgood : verdict true (withChecksum
      ([o.addr, 0x03, 16] ++ [r0, r1, r2, r3, r4, r5, r6, r7].flatMap be16)) o.addr 0x03 =
      .ok (16 :: [r0, r1, r2, r3, r4, r5, r6, r7].flatMap be16) := verdict_good (by simp)
  rw [hgood] at hv
  exact ⟨hv, hx⟩

end

/-! ### The law of one poll -/

/-- `t` is `s` after the events `evs` and the cadence wait, still in `Polling` (R189). -/
def Waited (s t : State) (evs : List Event) : Prop :=
  t.ctl = s.ctl ∧ t.res = s.res ∧ t.work.attempt = s.work.attempt ∧
    t.work.pollCount = s.work.pollCount ∧ t.work.elapsed = s.work.elapsed + 100 ∧
    t.trace = s.trace ++ evs ++ [.sleep 100]

theorem Exchanges.waited {n : Nat} {s u : State} {evs : List Event} (hx : Exchanges n s u)
    (htrace : u.trace = s.trace ++ evs) : Waited s (cadence u) evs :=
  ⟨hx.ctl, hx.res, hx.attempt, hx.pollCount, congrArg (· + 100) hx.elapsed,
    congrArg (· ++ [Event.sleep 100]) htrace⟩

/-- One poll whatever the ports answer: its exchange, the exchange that would fetch the data, and the
three outcomes that wait. -/
theorem pollOnce_waits (s : State) :
    let asked := readStatus s.ops.addr s.ops.tag s
    let fetched := readData s.ops.addr s.ops.tag asked.2
    ∃ ok reads ok' reads',
      let poll := .tx ((handlerRequest s.ops .readStatus).getD []) ok :: .sleep 50 :: reads
      let fetch := .tx ((handlerRequest s.ops .readData).getD []) ok' :: .sleep 50 :: reads'
      isFrameRead 64 reads = true ∧ asked.2.trace = s.trace ++ poll ∧
      asked.1 = (verdict ok (bytesRead reads) s.ops.addr 0x03).bind statusOfPayload ∧
      isFrameRead 64 reads' = true ∧ fetched.2.trace = s.trace ++ poll ++ fetch ∧
      fetched.1 = (verdict ok' (bytesRead reads') s.ops.addr 0x03).bind readingOfPayload ∧
      (∀ e, asked.1 = .error e → Waited s (pollOnce s) poll) ∧
      (∀ v, asked.1 = .ok v → v ≠ 2 → v ≠ 3 → Waited s (pollOnce s) poll) ∧
      (∀ e, asked.1 = .ok 2 → fetched.1 = .error e → Waited s (pollOnce s) (poll ++ fetch)) := by
  intro asked fetched
  obtain ⟨ok, reads, -, hreads, hverdict, htrace⟩ := readStatus_wire s s.ops
  obtain ⟨ok', reads', -, hreads', hverdict', htrace'⟩ := readData_wire asked.2 s.ops
  have hasked : Exchanges 1 s asked.2 := readStatus_exchanges ..
  have hfetched := hasked.trans (readData_exchanges s.ops.addr s.ops.tag asked.2)
  rw [htrace] at htrace'
  refine ⟨ok, reads, ok', reads', hreads, htrace, hverdict, hreads', htrace', hverdict',
    fun e he => ?statusFails, fun v hv h2 h3 => ?other, fun e hv he => ?dataFails⟩
  case statusFails =>
    rw [pollOnce_error rfl he]
    exact hasked.waited htrace
  case other =>
    rw [pollOnce_other rfl hv h2 h3]
    exact hasked.waited htrace
  case dataFails =>
    have hops : asked.2.ops = s.ops := hasked.keeps.ops
    rw [pollOnce_ok rfl hv, fetchReading_error hops he]
    exact hfetched.waited (by rw [htrace', List.append_assoc])

/-- One poll that is answered with the status `v`, by what `v` is. -/
theorem pollOnce_answered {s : State} {v : Byte} {txs : List Bool} {rxs : List (List Byte)}
    (o : Operands) (ho : s.ops = o) (htx : s.env.tx = true :: txs)
    (hrx : s.env.rx = withChecksum [o.addr, 0x03, 2, 0, v] :: rxs) :
    ∃ u, Answered ((handlerRequest o .readStatus).getD []) true (withChecksum [o.addr, 0x03, 2, 0, v])
        txs rxs s u ∧
      (v = 3 → pollOnce s = retryOrFail u) ∧ (v ≠ 2 → v ≠ 3 → pollOnce s = cadence u) ∧
      (v = 2 → pollOnce s = fetchReading u) := by
  obtain ⟨hstatus, hasked⟩ := readStatus_polled o htx hrx
  refine ⟨_, hasked, fun h3 => ?_, fun h2 h3 => pollOnce_other ho hstatus h2 h3, fun h2 => ?_⟩
  · exact pollOnce_statusError ho (hstatus.trans (congrArg _ h3))
  · exact pollOnce_ok ho (hstatus.trans (congrArg _ h2))

theorem retryOrFail_pollCount (s : State) : (retryOrFail s).work.pollCount = s.work.pollCount := by
  rcases retryOrFail_cases s with ⟨-, h⟩ | ⟨-, h⟩
  · rw [h]
    rfl
  · rw [h]
    rfl

/-- A turn at `Polling` with polls left counts one, whatever follows. -/
theorem Turn.pollCount {s t : State} (h : Turn s t) (ho : s.ctl.orch = .polling)
    (hlt : s.work.pollCount < s.work.pollBudget) : t.work.pollCount = s.work.pollCount + 1 := by
  cases h with
  | noRetry ho' => simp [ho] at ho'
  | triggered ho' => simp [ho] at ho'
  | triggerFailed ho' => simp [ho] at ho'
  | polling ho' => simp [ho] at ho'
  | exhausted _ hle => exact absurd hlt (BitVec.not_lt.2 hle)
  | statusError _ _ hx => exact (retryOrFail_pollCount _).trans hx.pollCount
  | wait _ _ _ hx => exact hx.pollCount
  | success _ _ _ hx => exact hx.pollCount
  | terminal ho' => simp [ho] at ho'

/-- After a poll that finds the status Error the cycle is counted, and slept on only when a retry
follows. -/
theorem retryOrFail_after {s u : State} {evs : List Event} {n : Nat} (hx : Exchanges n s u)
    (htrace : u.trace = s.trace ++ evs) (hlt : s.work.attempt < s.ops.maxRetries) :
    (retryOrFail u).work.attempt = s.work.attempt + 1 ∧
      (retryOrFail u).work.elapsed = s.work.elapsed ∧
      (s.work.attempt.toNat + 1 < s.ops.maxRetries.toNat →
        (retryOrFail u).ctl.orch = .idle ∧ (retryOrFail u).trace = s.trace ++ evs ++
          [.sleep (BitVec.ofNat 32 (100 * 2 ^ (s.work.attempt.toNat + 1)))]) ∧
      (s.work.attempt.toNat + 1 = s.ops.maxRetries.toNat →
        (retryOrFail u).ctl.orch = .failed ∧ (retryOrFail u).res.err = 0x0A ∧
          (retryOrFail u).trace = s.trace ++ evs) := by
  have hsucc := toNat_attempt_succ hlt
  have hattempt : u.work.attempt + 1 = s.work.attempt + 1 := congrArg (· + 1) hx.attempt
  have hmax : u.ops.maxRetries = s.ops.maxRetries := by rw [hx.keeps.ops]
  rcases retryOrFail_cases u with ⟨hretry, h⟩ | ⟨hlast, h⟩
  · rw [hattempt, hmax, BitVec.lt_def, hsucc] at hretry
    rw [h]
    refine ⟨hattempt, hx.elapsed, fun _ => ⟨rfl, ?_⟩, fun _ => by omega⟩
    rw [← htrace, ← hsucc, ← backoff_eq, ← hattempt]
    rfl
  · rw [hattempt, hmax, BitVec.le_def, hsucc] at hlast
    rw [h]
    exact ⟨hattempt, hx.elapsed, fun _ => by omega, fun _ => ⟨rfl, rfl, htrace⟩⟩

/-- Settles O40: a poll is counted and asked; its outcome decides between the retry step, the cadence wait
and the read of the data. -/
theorem pollOutcomeDecides : Obligations.PollOutcomeDecides := by
  intro s rest hinbox hbusy hmid horch hleft
  have hstep : step s = .next (pollOnce { s with inbox := rest }.bumpPoll) := by
    rw [step_engine_midway hinbox hbusy hmid,
      orchStep_poll (s := { s with inbox := rest }) horch hleft]
  refine ⟨?answered, ?any⟩
  case answered =>
    intro status txs rxs hretry hlimit answer polled htx hrx
    obtain ⟨u, hasked, herror, hother, -⟩ :=
      pollOnce_answered (s := { s with inbox := rest }.bumpPoll) (v := status) s.ops rfl htx hrx
    have hcount : (pollOnce { s with inbox := rest }.bumpPoll).work.pollCount = s.work.pollCount + 1 := by
      have hturn := orchStep_turn { s with inbox := rest }
      rw [orchStep_poll (s := { s with inbox := rest }) horch hleft] at hturn
      exact hturn.pollCount horch hleft
    refine ⟨_, hstep, hcount, fun h3 => ?error, fun h2 h3 => ?other⟩
    case error =>
      rw [herror h3]
      exact retryOrFail_after (s := { s with inbox := rest }.bumpPoll) (evs := polled) hasked.exchanges
        hasked.trace hretry
    case other =>
      rw [hother h2 h3]
      obtain ⟨hctl, -, hattempt, -, helapsed, htrace⟩ :=
        hasked.exchanges.waited (evs := polled) hasked.trace
      exact ⟨(congrArg Control.orch hctl).trans horch, hattempt, helapsed, htrace⟩
  case any =>
    obtain ⟨ok, reads, ok', reads', hreads, htrace, hverdict, hreads', htrace', hverdict', h1, h2, h3⟩ :=
      pollOnce_waits { s with inbox := rest }.bumpPoll
    exact ⟨ok, reads, ok', reads', hreads, htrace, hverdict, hreads', htrace', hverdict',
      fun e he => ⟨_, hstep, h1 e he⟩, fun v hv hv2 hv3 => ⟨_, hstep, h2 v hv hv2 hv3⟩,
      fun e hv he => ⟨_, hstep, h3 e hv he⟩⟩

end Sys2Proof.Machine
end

section
/-! The run of CAPTURE_PLATE (44_capture_orchestrator.md R182 to R196): where a run stands, in numbers, how
each transition moves it, and what it has come to when the command returns; O31, O32 and O36. -/

namespace Sys2Proof.Machine

/-! ### Where a run stands -/

/-- The sequencer and flags while CAPTURE_PLATE, started in `c`, stands in the state `o`. -/
def Control.capturing (c : Control) (o : Orch) : Control :=
  { c with busy := true, done := false, valid := false, curOp := 0x20, orch := o, midway := true }

/-- CAPTURE_PLATE, started in `s₀`, stands in `s` in the orchestrator's state `o`, after `a` failed cycles
and `c` polls of this cycle, with `tx` exchanges and at most `sl` waits made. -/
structure Stands (s₀ s : State) (o : Orch) (a c tx sl : Nat) : Prop where
  keeps : EngineKeeps s₀ s
  ctl : s.ctl = s₀.ctl.capturing o
  res : s.res = { Results.zero with orch := o.code }
  budget : s.work.pollBudget.toNat = s₀.ops.timeout.toNat / 100
  attempt : s.work.attempt.toNat = a
  pollCount : s.work.pollCount.toNat = c
  trace : ∃ evs, s.trace = s₀.trace ++ evs ∧ countTx evs = tx ∧ evs.length ≤ 192 * tx + sl

section
variable {s₀ s u : State} {o : Orch} {a c tx sl n : Nat}

theorem Stands.exchanges (h : Stands s₀ s o a c tx sl) (hx : Exchanges n s u) :
    Stands s₀ u o a c (tx + n) sl := by
  obtain ⟨evs, htrace, htx, hlen⟩ := h.trace
  obtain ⟨evs', htrace', htx', hlen'⟩ := hx.trace
  refine ⟨h.keeps.trans hx.keeps, hx.ctl.trans h.ctl, hx.res.trans h.res, by rw [hx.pollBudget, h.budget],
    by rw [hx.attempt, h.attempt], by rw [hx.pollCount, h.pollCount], evs ++ evs', ?_, ?_, ?_⟩
  · rw [htrace', htrace, List.append_assoc]
  · rw [countTx_append, htx, htx']
  · rw [List.length_append]
    omega

theorem Stands.setOrch (h : Stands s₀ s o a c tx sl) (o' : Orch) :
    Stands s₀ (s.setOrch o') o' a c tx sl :=
  ⟨h.keeps.trans (setOrch_engineKeeps o' s), by rw [setOrch_ctl, h.ctl]; rfl,
    by rw [setOrch_res, h.res], h.budget, h.attempt, h.pollCount, h.trace⟩

theorem Stands.clearPolls (h : Stands s₀ s o a c tx sl) : Stands s₀ s.clearPolls o a 0 tx sl :=
  ⟨h.keeps.trans (.of_registers rfl rfl rfl rfl rfl rfl rfl), h.ctl, h.res, h.budget, h.attempt, rfl,
    h.trace⟩

theorem Stands.bumpPoll (h : Stands s₀ s o a c tx sl) (hlt : s.work.pollCount < s.work.pollBudget) :
    Stands s₀ s.bumpPoll o a (c + 1) tx sl := by
  have hcount : (s.work.pollCount + 1).toNat = c + 1 := by
    rw [← h.pollCount]
    bv_omega
  exact ⟨h.keeps.trans (bumpPoll_engineKeeps s), h.ctl, h.res, h.budget, h.attempt, hcount, h.trace⟩

theorem Stands.bumpAttempt (h : Stands s₀ s o a c tx sl) (hlt : s.work.attempt < s₀.ops.maxRetries) :
    Stands s₀ s.bumpAttempt o (a + 1) c tx sl := by
  have hattempt : (s.work.attempt + 1).toNat = a + 1 := by rw [toNat_attempt_succ hlt, h.attempt]
  exact ⟨h.keeps.trans (bumpAttempt_engineKeeps s), h.ctl, h.res, h.budget, hattempt, h.pollCount, h.trace⟩

theorem Stands.sleep (h : Stands s₀ s o a c tx sl) (ms : Word) :
    Stands s₀ (sleep ms s) o a c tx (sl + 1) := by
  obtain ⟨evs, htrace, htx, hlen⟩ := h.trace
  refine ⟨h.keeps.trans (.of_update rfl rfl rfl id id id rfl (.sleep ms)), h.ctl, h.res, h.budget,
    h.attempt, h.pollCount, evs ++ [.sleep ms], ?_, ?_, ?_⟩
  · rw [sleep_trace, htrace, List.append_assoc]
  · rw [countTx_append, htx]
    rfl
  · rw [List.length_append, List.length_singleton]
    omega

theorem Stands.backedOff (h : Stands s₀ s o a c tx sl) (hlt : s.work.attempt < s₀.ops.maxRetries) :
    Stands s₀ s.backedOff o (a + 1) c tx (sl + 1) :=
  (h.bumpAttempt hlt).sleep _

theorem Stands.cadence (h : Stands s₀ s o a c tx sl) : Stands s₀ (cadence s) o a c tx (sl + 1) :=
  let hs := h.sleep Config.tPoll
  ⟨hs.keeps.trans (.of_registers rfl rfl rfl rfl rfl rfl rfl), hs.ctl, hs.res, hs.budget, hs.attempt,
    hs.pollCount, hs.trace⟩

end

/-! ### What a run has come to (R193) -/

/-- CAPTURE_PLATE, started in `s₀`, has returned in `t` in the terminal state `o` with the results `r`,
after `a` failed cycles, with `tx` exchanges and at most `sl` waits made. -/
structure Ended (s₀ t : State) (o : Orch) (valid : Bool) (r : Results) (a tx sl : Nat) : Prop where
  keeps : EngineKeeps s₀ t
  ctl : t.ctl = { s₀.ctl.returned 0x20 valid with orch := o }
  res : t.res = r
  attempt : t.work.attempt.toNat = a
  trace : ∃ evs, t.trace = s₀.trace ++ evs ∧ countTx evs = tx ∧ evs.length ≤ 192 * tx + sl

section
variable {s₀ s : State} {o : Orch} {a c tx sl : Nat}

theorem Stands.fail (h : Stands s₀ s o a c tx sl) :
    Ended s₀ (captureFail s) .failed false
      { Results.zero with err := 0x0A, orch := 4, attempt := s.work.attempt } a tx sl := by
  refine ⟨h.keeps.trans (captureFail_engineKeeps s), ?_, ?_, h.attempt, h.trace⟩
  · simp [captureFail, h.ctl, Control.capturing, Control.returned]
  · simp [captureFail, h.res, Err.code, Err.exc, Orch.code, Results.zero]

theorem Stands.succeed (h : Stands s₀ s o a c tx sl) (r : Reading) :
    Ended s₀ (captureSucceed r s) .succeeded true
      { Results.zero with reading := r, orch := 3, attempt := s.work.attempt } a tx sl := by
  refine ⟨h.keeps.trans (captureSucceed_engineKeeps r s), ?_, ?_, h.attempt, h.trace⟩
  · simp [captureSucceed, h.ctl, Control.capturing, Control.returned]
  · simp [captureSucceed, h.res, Orch.code, Results.zero]

end

/-! ### The bounds of a run (R196) -/

/-- How far a run with `M` cycles of `B` polls each has come at most: each failed cycle has cost `1 + 2B`
exchanges and `B + 1` waits. -/
def Budgeted (M B : Nat) : Orch → (a c tx sl : Nat) → Prop
  | .idle, a, _, tx, sl => a ≤ M ∧ tx ≤ a * (1 + 2 * B) ∧ sl ≤ a * (B + 1)
  | .triggered, a, _, tx, sl => a < M ∧ tx ≤ a * (1 + 2 * B) + 1 ∧ sl ≤ a * (B + 1)
  | .polling, a, c, tx, sl =>
    a < M ∧ c ≤ B ∧ tx ≤ a * (1 + 2 * B) + 1 + 2 * c ∧ sl ≤ a * (B + 1) + c
  | .succeeded, _, _, _, _ => False
  | .failed, _, _, _, _ => False

/-- The transitions that are left at most. -/
def turnsLeft (M B : Nat) : Orch → (a c : Nat) → Nat
  | .idle, a, _ => (M - a) * (B + 3) + 1
  | .triggered, a, _ => (M - a) * (B + 3)
  | .polling, a, c => (M - a) * (B + 3) - (1 + c)
  | .succeeded, _, _ => 0
  | .failed, _, _ => 0

/-- `max_retries`, the cycles a run may make. -/
def State.retries (s : State) : Nat := s.ops.maxRetries.toNat

/-- `floor(timeout_ms / 100)`, the polls of one cycle. -/
def State.polls (s : State) : Nat := s.ops.timeout.toNat / 100

/-- A run of CAPTURE_PLATE, started in `s₀`, on its way. -/
def Running (s₀ s : State) : Prop :=
  ∃ o a c tx sl, Stands s₀ s o a c tx sl ∧ Budgeted s₀.retries s₀.polls o a c tx sl

/-- A run of CAPTURE_PLATE, started in `s₀`, that has returned: Succeeded with fewer than `max_retries`
failed cycles or Failed with all of them, within the bounds of R196 item 3. -/
def Returned (s₀ t : State) : Prop :=
  ∃ o v r a tx sl, Ended s₀ t o v r a tx sl ∧ tx ≤ s₀.retries * (1 + 2 * s₀.polls) + 1 ∧
    sl ≤ s₀.retries * (s₀.polls + 1) ∧
    ((o = .succeeded ∧ v = true ∧ a < s₀.retries ∧ ∃ reading,
        r = { Results.zero with reading := reading, orch := 3, attempt := t.work.attempt }) ∨
      (o = .failed ∧ v = false ∧ a = s₀.retries ∧
        r = { Results.zero with err := 0x0A, orch := 4, attempt := t.work.attempt }))

/-- The transitions that are left at most in `s`, for a run started in `s₀`. -/
def turnsFrom (s₀ s : State) : Nat :=
  turnsLeft s₀.retries s₀.polls s.ctl.orch s.work.attempt.toNat s.work.pollCount.toNat

/-- `t` is on its way with fewer transitions left than `n`, or has returned. -/
def Advances (s₀ t : State) (n : Nat) : Prop := (Running s₀ t ∧ turnsFrom s₀ t < n) ∨ Returned s₀ t

theorem mul_add_le_of_lt {M a : Nat} (X : Nat) (h : a < M) : a * X + X ≤ M * X := by
  rw [← Nat.succ_mul]
  exact Nat.mul_le_mul_right X h

theorem sub_mul_eq_of_lt {M a : Nat} (X : Nat) (h : a < M) :
    (M - a) * X = (M - (a + 1)) * X + X := by
  rw [← Nat.succ_mul]
  congr 1
  omega

section
variable {s₀ s t u : State} {o : Orch} {a c tx sl n : Nat}

theorem Stands.orch (h : Stands s₀ s o a c tx sl) : s.ctl.orch = o := by rw [h.ctl]; rfl

theorem Stands.maxRetries (h : Stands s₀ s o a c tx sl) : s.ops.maxRetries = s₀.ops.maxRetries := by
  rw [h.keeps.ops]

theorem Stands.attempt_lt (h : Stands s₀ s o a c tx sl) (ha : a < s₀.retries) :
    s.work.attempt < s₀.ops.maxRetries := by
  rwa [BitVec.lt_def, h.attempt]

theorem Stands.turnsFrom (h : Stands s₀ s o a c tx sl) :
    turnsFrom s₀ s = turnsLeft s₀.retries s₀.polls o a c := by
  rw [Machine.turnsFrom, h.orch, h.attempt, h.pollCount]

theorem Stands.advances (h : Stands s₀ t o a c tx sl)
    (hb : Budgeted s₀.retries s₀.polls o a c tx sl) (hn : turnsLeft s₀.retries s₀.polls o a c < n) :
    Advances s₀ t n :=
  .inl ⟨⟨o, a, c, tx, sl, h, hb⟩, by rwa [h.turnsFrom]⟩

/-- A run whose last cycle has failed returns. -/
theorem Stands.fail_returned (h : Stands s₀ s o a c tx sl) (ha : a = s₀.retries)
    (htx : tx ≤ s₀.retries * (1 + 2 * s₀.polls) + 1) (hsl : sl ≤ s₀.retries * (s₀.polls + 1)) :
    Returned s₀ (captureFail s) :=
  ⟨_, _, _, a, tx, sl, h.fail, htx, hsl, .inr ⟨rfl, rfl, ha, rfl⟩⟩

theorem Stands.succeed_returned (h : Stands s₀ s o a c tx sl) (r : Reading) (ha : a < s₀.retries)
    (htx : tx ≤ s₀.retries * (1 + 2 * s₀.polls) + 1) (hsl : sl ≤ s₀.retries * (s₀.polls + 1)) :
    Returned s₀ (captureSucceed r s) :=
  ⟨_, _, _, a, tx, sl, h.succeed r, htx, hsl, .inl ⟨rfl, rfl, ha, r, rfl⟩⟩

/-- A run at the end of a failed cycle, from a state with `a` failed cycles before: what the cycle has
cost, and how many transitions there were left. -/
structure CycleSpent (s₀ : State) (a tx sl n : Nat) : Prop where
  more : a < s₀.retries
  tx : tx ≤ a * (1 + 2 * s₀.polls) + (1 + 2 * s₀.polls)
  waits : sl ≤ a * (s₀.polls + 1) + s₀.polls
  turns : (s₀.retries - (a + 1)) * (s₀.polls + 3) + 1 < n

theorem Stands.advances_idle (h : Stands s₀ u o a c tx sl) (hc : CycleSpent s₀ a tx sl n)
    (hlt : u.work.attempt + 1 < u.ops.maxRetries) : Advances s₀ (u.backedOff.setOrch .idle) n := by
  have hmore := h.attempt_lt hc.more
  rw [h.maxRetries, BitVec.lt_def, toNat_attempt_succ hmore, h.attempt] at hlt
  obtain ⟨-, htx, hsl, hn⟩ := hc
  refine ((h.backedOff hmore).setOrch .idle).advances ⟨hlt.le, ?_, ?_⟩ hn
  · rwa [Nat.succ_mul]
  · rw [Nat.succ_mul]
    omega

/-- No cycle is left after this one. -/
theorem Stands.last (h : Stands s₀ u o a c tx sl) (hmore : a < s₀.retries)
    (hle : u.ops.maxRetries ≤ u.work.attempt + 1) : a + 1 = s₀.retries := by
  rw [h.maxRetries, BitVec.le_def, toNat_attempt_succ (h.attempt_lt hmore), h.attempt] at hle
  exact Nat.le_antisymm hmore hle

theorem Stands.advances_triggerFailed (h : Stands s₀ u o a c tx sl) (hc : CycleSpent s₀ a tx sl n) :
    Advances s₀ (triggerFailed u) n := by
  rcases triggerFailed_cases u with ⟨hlt, heq⟩ | ⟨hle, heq⟩
  · rw [heq]
    exact h.advances_idle hc hlt
  · have hmore := h.attempt_lt hc.more
    have htx := mul_add_le_of_lt (1 + 2 * s₀.polls) hc.more
    have hsl := mul_add_le_of_lt (s₀.polls + 1) hc.more
    have hctx := hc.tx
    have hcsl := hc.waits
    rw [heq]
    exact .inr ((h.backedOff hmore).fail_returned (h.last hc.more hle) (by omega) (by omega))

theorem Stands.advances_retryOrFail (h : Stands s₀ u o a c tx sl) (hc : CycleSpent s₀ a tx sl n) :
    Advances s₀ (retryOrFail u) n := by
  rcases retryOrFail_cases u with ⟨hlt, heq⟩ | ⟨hle, heq⟩
  · rw [heq]
    exact h.advances_idle hc hlt
  · have hmore := h.attempt_lt hc.more
    have htx := mul_add_le_of_lt (1 + 2 * s₀.polls) hc.more
    have hsl := mul_add_le_of_lt (s₀.polls + 1) hc.more
    have hctx := hc.tx
    have hcsl := hc.waits
    rw [heq]
    exact .inr ((h.bumpAttempt hmore).fail_returned (h.last hc.more hle) (by omega) (by omega))

end

/-- A transition of a run leaves it with fewer transitions to go, or ends it. -/
theorem Turn.advances {s₀ s t : State} (hs : Running s₀ s) (h : Turn s t) :
    Advances s₀ t (turnsFrom s₀ s) := by
  obtain ⟨o, a, c, tx, sl, hst, hb⟩ := hs
  have horch := hst.orch
  have hturns := sub_mul_eq_of_lt (M := s₀.retries) (a := a) (s₀.polls + 3)
  have hX := mul_add_le_of_lt (M := s₀.retries) (a := a) (1 + 2 * s₀.polls)
  have hY := mul_add_le_of_lt (M := s₀.retries) (a := a) (s₀.polls + 1)
  rw [hst.turnsFrom]
  cases h with
  | noRetry ho h =>
    obtain rfl : o = .idle := horch.symm.trans ho
    obtain ⟨ha, htx, hsl⟩ := hb
    have hlast : a = s₀.retries := by
      rw [hst.maxRetries, BitVec.le_def, hst.attempt] at h
      exact ha.antisymm h
    subst hlast
    exact .inr (hst.fail_returned rfl (by omega) hsl)
  | triggered ho h hx =>
    obtain rfl : o = .idle := horch.symm.trans ho
    obtain ⟨-, htx, hsl⟩ := hb
    have hmore : a < s₀.retries := by rwa [hst.maxRetries, BitVec.lt_def, hst.attempt] at h
    refine ((hst.exchanges hx).setOrch .triggered).advances ⟨hmore, by omega, hsl⟩ ?_
    simp only [turnsLeft]
    omega
  | triggerFailed ho h hx =>
    obtain rfl : o = .idle := horch.symm.trans ho
    obtain ⟨-, htx, hsl⟩ := hb
    have hmore : a < s₀.retries := by rwa [hst.maxRetries, BitVec.lt_def, hst.attempt] at h
    refine (hst.exchanges hx).advances_triggerFailed ⟨hmore, by omega, by omega, ?_⟩
    simp only [turnsLeft]
    omega
  | polling ho =>
    obtain rfl : o = .triggered := horch.symm.trans ho
    obtain ⟨hmore, htx, hsl⟩ := hb
    refine (hst.clearPolls.setOrch .polling).advances ⟨hmore, by omega, by omega, by omega⟩ ?_
    simp only [turnsLeft]
    omega
  | exhausted ho h =>
    obtain rfl : o = .polling := horch.symm.trans ho
    obtain ⟨hmore, hc, htx, hsl⟩ := hb
    refine hst.advances_retryOrFail ⟨hmore, by omega, by omega, ?_⟩
    simp only [turnsLeft]
    omega
  | statusError ho h hx =>
    obtain rfl : o = .polling := horch.symm.trans ho
    obtain ⟨hmore, -, htx, hsl⟩ := hb
    have hc : c < s₀.polls := by rwa [BitVec.lt_def, hst.budget, hst.pollCount] at h
    refine ((hst.bumpPoll h).exchanges hx).advances_retryOrFail ⟨hmore, by omega, by omega, ?_⟩
    simp only [turnsLeft]
    omega
  | wait ho h hn hx =>
    obtain rfl : o = .polling := horch.symm.trans ho
    obtain ⟨hmore, -, htx, hsl⟩ := hb
    have hc : c < s₀.polls := by rwa [BitVec.lt_def, hst.budget, hst.pollCount] at h
    refine ((hst.bumpPoll h).exchanges hx).cadence.advances
      ⟨hmore, by omega, by omega, by omega⟩ ?_
    simp only [turnsLeft]
    omega
  | success r ho h hx =>
    obtain rfl : o = .polling := horch.symm.trans ho
    obtain ⟨hmore, -, htx, hsl⟩ := hb
    have hc : c < s₀.polls := by rwa [BitVec.lt_def, hst.budget, hst.pollCount] at h
    exact .inr (((hst.bumpPoll h).exchanges hx).succeed_returned r hmore (by omega) (by omega))
  | terminal ho =>
    rcases ho with ho | ho
    · obtain rfl : o = .succeeded := horch.symm.trans ho
      exact hb.elim
    · obtain rfl : o = .failed := horch.symm.trans ho
      exact hb.elim

/-! ### The whole run -/

/-- The state in which a legal CAPTURE_PLATE meets its first transition. -/
theorem captureStart_legal {s : State} (h : s.ops.maxRetries.toNat ≤ 25) :
    captureStart s = (((s.begin 0x20).openSession).setOrch .idle).enterLoop :=
  if_pos (decide_eq_true h)

theorem toNat_pollBudget (s : State) : (s.ops.timeout / 100).toNat = s.polls := by
  rw [BitVec.toNat_udiv]
  rfl

theorem captureFuel_captureStart {s : State} (h : s.ops.maxRetries.toNat ≤ 25) :
    captureFuel (captureStart s) = (s.retries + 1) * (s.polls + 4) := by
  rw [captureStart_legal h, ← toNat_pollBudget]
  rfl

theorem captureStart_engineKeeps (s : State) : EngineKeeps s (captureStart s) := by
  cases h : s.ops.retriesLegal with
  | true =>
    rw [captureStart_legal (of_decide_eq_true h)]
    exact .of_update rfl rfl rfl (fun _ => rfl) id id (List.append_nil _).symm .nil
  | false =>
    rw [captureStart_misuse h]
    exact .of_update rfl rfl rfl (fun _ => rfl) id id (List.append_nil _).symm .nil

theorem captureStart_running {s : State} (h : s.ops.maxRetries.toNat ≤ 25) :
    Running s (captureStart s) ∧ turnsFrom s (captureStart s) < captureFuel (captureStart s) := by
  have hkeeps := captureStart_engineKeeps s
  rw [captureStart_legal h] at hkeeps ⊢
  have hst : Stands s (((s.begin 0x20).openSession).setOrch .idle).enterLoop .idle 0
      s.work.pollCount.toNat 0 0 :=
    ⟨hkeeps, rfl, rfl, toNat_pollBudget s, rfl, rfl, [], (List.append_nil _).symm, rfl, le_rfl⟩
  refine ⟨⟨_, _, _, _, _, hst, Nat.zero_le _, by omega, by omega⟩, ?_⟩
  rw [hst.turnsFrom, ← captureStart_legal h, captureFuel_captureStart h]
  simp only [turnsLeft, Nat.sub_zero, Nat.add_mul, Nat.mul_add]
  omega

theorem Running.busy {s₀ s : State} (h : Running s₀ s) : s.ctl.busy = true := by
  obtain ⟨o, a, c, tx, sl, hst, -⟩ := h
  rw [hst.ctl]
  rfl

theorem Returned.idle {s₀ t : State} (h : Returned s₀ t) : t.ctl.busy = false := by
  obtain ⟨o, v, r, a, tx, sl, hend, -⟩ := h
  rw [hend.ctl]
  rfl

/-- A legal CAPTURE_PLATE, given at least the fuel of the model, returns. -/
theorem captureLoop_returns {s : State} (h : s.ops.maxRetries.toNat ≤ 25) {n : Nat}
    (hn : captureFuel (captureStart s) ≤ n) : Returned s (captureLoop n (captureStart s)) := by
  obtain ⟨hrun, hfuel⟩ := captureStart_running h
  refine (captureLoop_ends (P := Running s) (Q := Returned s) (turnsFrom s) (fun u hu => ?_) n _ hrun
    (hfuel.trans_le hn)).2
  exact ⟨hu.busy, (Turn.advances hu (orchStep_turn u)).imp id fun hr => ⟨hr.idle, hr⟩⟩

theorem exec_capturePlate_returned {s : State} (h : s.ops.maxRetries.toNat ≤ 25) :
    ∃ t, exec .capturePlate s = .next t ∧ Returned s t :=
  ⟨_, rfl, captureLoop_returns h le_rfl⟩

/-- Settles O31: a refused operand ends the command at once; else its run ends in one of the two terminal
states. -/
theorem capturePlateAlwaysReturns : Obligations.CapturePlateAlwaysReturns := by
  intro s
  by_cases h : s.ops.maxRetries.toNat ≤ 25
  · obtain ⟨t, hexec, o, v, r, a, tx, sl, hend, -, -, hcase⟩ := exec_capturePlate_returned h
    have hctl := hend.ctl
    refine ⟨t, hexec, hend.keeps.ops, hend.keeps.inbox, hend.keeps.hostData, by rw [hctl]; rfl,
      by rw [hctl]; rfl, by rw [hctl]; rfl, by rw [hctl]; rfl, .inr ?_⟩
    rcases hcase with ⟨rfl, rfl, ha, reading, rfl⟩ | ⟨rfl, rfl, ha, rfl⟩
    · refine .inl ⟨h, by rw [hctl]; rfl, by rw [hctl], reading, _, ?_, rfl, hend.res⟩
      rw [BitVec.lt_def, hend.attempt]
      exact ha
    · have hall : t.work.attempt = s.ops.maxRetries :=
        BitVec.eq_of_toNat_eq (hend.attempt.trans ha)
      refine .inr ⟨h, by rw [hctl]; rfl, by rw [hctl], hall, ?_⟩
      rw [hend.res, hall]
  · have hlong : 25 < s.ops.maxRetries.toNat := by omega
    exact ⟨_, exec_capturePlate_misuse (Operands.retriesLegal_eq_false_iff.2 hlong), rfl, rfl, rfl, rfl,
      rfl, rfl, rfl, .inl ⟨hlong, rfl, rfl, rfl, rfl, rfl, rfl⟩⟩

/-- Settles O32: the first transition finds no cycle allowed. -/
theorem noRetriesFailsAtOnce : Obligations.NoRetriesFailsAtOnce := by
  intro s h
  have hlegal : s.ops.maxRetries.toNat ≤ 25 := by simp [h]
  obtain ⟨n, hn⟩ : ∃ n, captureFuel (captureStart s) = n + 1 :=
    ⟨captureFuel (captureStart s) - 1, by simp only [captureFuel, Nat.add_mul, Nat.mul_add]; omega⟩
  have hfirst : orchStep (captureStart s) = captureFail (captureStart s) := by
    rw [captureStart_legal hlegal]
    exact orchStep_idle_spent rfl (BitVec.le_of_eq h)
  have hbusy : (captureStart s).ctl.busy = true := (captureStart_running hlegal).1.busy
  have hloop : captureLoop (n + 1) (captureStart s) = captureFail (captureStart s) := by
    rw [captureLoop, if_pos hbusy, hfirst, captureLoop_returned rfl]
  have hrest : captureRest (captureStart s) = captureFail (captureStart s) := by
    rw [captureRest, hn, hloop]
  rw [exec, execCapturePlate, hrest, captureStart_legal hlegal]
  rfl

/-- Settles O36: a refused operand makes no event; a run that has returned is within its bounds. -/
theorem capturePlateIsBounded : Obligations.CapturePlateIsBounded := by
  intro s t hexec M B
  by_cases h : s.ops.maxRetries.toNat ≤ 25
  · obtain ⟨t', hexec', o, v, r, a, tx, sl, hend, htx, hsl, -⟩ := exec_capturePlate_returned h
    obtain rfl : t' = t := Host.Outcome.next.inj (hexec'.symm.trans hexec)
    obtain ⟨evs, htrace, rfl, hlen⟩ := hend.trace
    refine ⟨evs, htrace, htx, hlen.trans ?_⟩
    rw [Nat.mul_comm]
    exact Nat.add_le_add (Nat.mul_le_mul_right 192 htx) hsl
  · have hlong : 25 < s.ops.maxRetries.toNat := by omega
    rw [exec_capturePlate_misuse (Operands.retriesLegal_eq_false_iff.2 hlong),
      Host.Outcome.next.injEq] at hexec
    subst hexec
    exact ⟨[], (List.append_nil _).symm, Nat.zero_le _, Nat.zero_le _⟩

end Sys2Proof.Machine
end

section
/-! Two runs of the orchestrator side by side: a relation that the named operations keep is kept by every
transition. From it, that the moves that are waiting do not matter to a run (O42) and that nothing but
operands and environment does (used for O47). -/

namespace Sys2Proof.Machine

/-- A relation between states that agree on what the orchestrator looks at, and that the operations of
the orchestrator keep. -/
structure Simulation (R : State → State → Prop) : Prop where
  ops : ∀ {s s'}, R s s' → s.ops = s'.ops
  ctl : ∀ {s s'}, R s s' → s.ctl = s'.ctl
  attempt : ∀ {s s'}, R s s' → s.work.attempt = s'.work.attempt
  pollBudget : ∀ {s s'}, R s s' → s.work.pollBudget = s'.work.pollBudget
  pollCount : ∀ {s s'}, R s s' → s.ctl.orch = .polling → s.work.pollCount = s'.work.pollCount
  transact : ∀ {s s'} (a f : Byte) (p : List Byte) (t : Tag), p.length ≤ 56 → R s s' →
    (transact a f p t s).1 = (transact a f p t s').1 ∧
      R (transact a f p t s).2 (transact a f p t s').2
  bumpAttempt : ∀ {s s'}, R s s' → R s.bumpAttempt s'.bumpAttempt
  bumpPoll : ∀ {s s'}, R s s' → R s.bumpPoll s'.bumpPoll
  sleep : ∀ {s s'} (ms : Word), R s s' → R (sleep ms s) (sleep ms s')
  addElapsed : ∀ {s s'}, R s s' → R s.addElapsed s'.addElapsed
  toIdle : ∀ {s s'}, R s s' → R (s.setOrch .idle) (s'.setOrch .idle)
  toTriggered : ∀ {s s'}, R s s' → R (s.setOrch .triggered) (s'.setOrch .triggered)
  toPolling : ∀ {s s'}, R s s' → R (s.clearPolls.setOrch .polling) (s'.clearPolls.setOrch .polling)
  captureFail : ∀ {s s'}, R s s' → R (captureFail s) (captureFail s')
  captureSucceed : ∀ {s s'} (r : Reading), R s s' → R (captureSucceed r s) (captureSucceed r s')

section
variable {R : State → State → Prop} (h : Simulation R) {s s' : State}
include h

/-- A handler call, whatever it makes of the payload. -/
theorem Simulation.andThen {α : Type} (a f : Byte) {p : List Byte} (t : Tag) (hp : p.length ≤ 56)
    (g : List Byte → Except Err α) (hR : R s s') :
    (andThen (Machine.transact a f p t s) g).1 = (andThen (Machine.transact a f p t s') g).1 ∧
      R (andThen (Machine.transact a f p t s) g).2 (andThen (Machine.transact a f p t s') g).2 := by
  obtain ⟨hv, hu⟩ := h.transact a f p t hp hR
  simp only [andThen_fst, andThen_snd, hv]
  exact ⟨trivial, hu⟩

theorem Simulation.backedOff (hR : R s s') : R s.backedOff s'.backedOff := by
  have hb := h.sleep (backoff (s.work.attempt + 1)) (h.bumpAttempt hR)
  rwa [State.backedOff, State.backedOff, ← h.attempt hR]

theorem Simulation.retry_iff (hR : R s s') :
    s.work.attempt + 1 < s.ops.maxRetries ↔ s'.work.attempt + 1 < s'.ops.maxRetries := by
  rw [h.attempt hR, h.ops hR]

theorem Simulation.triggerFailed (hR : R s s') : R (triggerFailed s) (triggerFailed s') := by
  by_cases hlt : s.work.attempt + 1 < s.ops.maxRetries
  · rw [triggerFailed_of_lt hlt, triggerFailed_of_lt ((h.retry_iff hR).1 hlt)]
    exact h.toIdle (h.backedOff hR)
  · rw [triggerFailed_of_not_lt hlt, triggerFailed_of_not_lt (mt (h.retry_iff hR).2 hlt)]
    exact h.captureFail (h.backedOff hR)

theorem Simulation.retryOrFail (hR : R s s') : R (retryOrFail s) (retryOrFail s') := by
  by_cases hlt : s.work.attempt + 1 < s.ops.maxRetries
  · rw [retryOrFail_of_lt hlt, retryOrFail_of_lt ((h.retry_iff hR).1 hlt)]
    exact h.toIdle (h.backedOff hR)
  · rw [retryOrFail_of_not_lt hlt, retryOrFail_of_not_lt (mt (h.retry_iff hR).2 hlt)]
    exact h.captureFail (h.bumpAttempt hR)

theorem Simulation.cadence (hR : R s s') : R (cadence s) (cadence s') :=
  h.addElapsed (h.sleep _ hR)

/-! Handler calls give the same answers. -/

theorem Simulation.triggerCapture (a : Byte) (t : Tag) (hR : R s s') :
    (triggerCapture a t s).1 = (triggerCapture a t s').1 ∧
      R (triggerCapture a t s).2 (triggerCapture a t s').2 :=
  h.andThen a _ t (by simp) _ hR

theorem Simulation.resetTrigger (a : Byte) (t : Tag) (hR : R s s') :
    R (resetTrigger a t s).2 (resetTrigger a t s').2 :=
  (h.andThen a _ (p := wmrPayload Config.regTrigger [0]) t (by simp) (fun _ => .ok ()) hR).2

theorem Simulation.readStatus (a : Byte) (t : Tag) (hR : R s s') :
    (readStatus a t s).1 = (readStatus a t s').1 ∧ R (readStatus a t s).2 (readStatus a t s').2 :=
  h.andThen a _ t (by simp) _ hR

theorem Simulation.readData (a : Byte) (t : Tag) (hR : R s s') :
    (readData a t s).1 = (readData a t s').1 ∧ R (readData a t s).2 (readData a t s').2 :=
  h.andThen a _ t (by simp) _ hR

/-! Transitions take the same branch. -/

theorem Simulation.orchIdle (ho : s.ctl.orch = .idle) (hR : R s s') : R (orchStep s) (orchStep s') := by
  have ho' : s'.ctl.orch = .idle := by rw [← h.ctl hR, ho]
  by_cases hle : s.ops.maxRetries ≤ s.work.attempt
  · rw [orchStep_idle_spent ho hle, orchStep_idle_spent ho' (by rwa [← h.attempt hR, ← h.ops hR])]
    exact h.captureFail hR
  · have hlt := BitVec.not_le.1 hle
    have hlt' : s'.work.attempt < s'.ops.maxRetries := by rwa [← h.attempt hR, ← h.ops hR]
    obtain ⟨hv, hu⟩ := h.triggerCapture s.ops.addr s.ops.tag hR
    cases htrig : (Machine.triggerCapture s.ops.addr s.ops.tag s).1 with
    | ok v =>
      rw [orchStep_idle_ok ho hlt htrig,
        orchStep_idle_ok ho' hlt' (by rw [← h.ops hR, ← hv, htrig]), ← h.ops hR]
      exact h.toTriggered hu
    | error e =>
      rw [orchStep_idle_error ho hlt htrig,
        orchStep_idle_error (e := e) ho' hlt' (by rw [← h.ops hR, ← hv, htrig]), ← h.ops hR]
      exact h.triggerFailed hu

theorem Simulation.fetchReading (hR : R s s') : R (fetchReading s) (fetchReading s') := by
  obtain ⟨hv, hu⟩ := h.readData s.ops.addr s.ops.tag hR
  have hops := (h.ops hR).symm
  cases hdata : (Machine.readData s.ops.addr s.ops.tag s).1 with
  | error e =>
    rw [fetchReading_error rfl hdata, fetchReading_error hops (hv.symm.trans hdata)]
    exact h.cadence hu
  | ok r =>
    rw [fetchReading_ok rfl hdata, fetchReading_ok hops (hv.symm.trans hdata)]
    exact h.captureSucceed r (h.resetTrigger _ _ hu)

theorem Simulation.pollOnce (hR : R s s') : R (pollOnce s) (pollOnce s') := by
  obtain ⟨hv, hu⟩ := h.readStatus s.ops.addr s.ops.tag hR
  have hops := (h.ops hR).symm
  cases hstatus : (Machine.readStatus s.ops.addr s.ops.tag s).1 with
  | error e =>
    rw [pollOnce_error rfl hstatus, pollOnce_error hops (hv.symm.trans hstatus)]
    exact h.cadence hu
  | ok v =>
    have hstatus' := hv.symm.trans hstatus
    by_cases h2 : v = 2
    · subst h2
      rw [pollOnce_ok rfl hstatus, pollOnce_ok hops hstatus']
      exact h.fetchReading hu
    by_cases h3 : v = 3
    · subst h3
      rw [pollOnce_statusError rfl hstatus, pollOnce_statusError hops hstatus']
      exact h.retryOrFail hu
    · rw [pollOnce_other rfl hstatus h2 h3, pollOnce_other hops hstatus' h2 h3]
      exact h.cadence hu

theorem Simulation.orchPolling (ho : s.ctl.orch = .polling) (hR : R s s') :
    R (orchStep s) (orchStep s') := by
  have ho' : s'.ctl.orch = .polling := by rw [← h.ctl hR, ho]
  have hcount := h.pollCount hR ho
  by_cases hle : s.work.pollBudget ≤ s.work.pollCount
  · rw [orchStep_exhausted ho hle, orchStep_exhausted ho' (by rwa [← hcount, ← h.pollBudget hR])]
    exact h.retryOrFail hR
  · have hlt := BitVec.not_le.1 hle
    rw [orchStep_poll ho hlt, orchStep_poll ho' (by rwa [← hcount, ← h.pollBudget hR])]
    exact h.pollOnce (h.bumpPoll hR)

/-- A transition keeps the relation. -/
theorem Simulation.orchStep (hR : R s s') : R (orchStep s) (orchStep s') := by
  have hctl := h.ctl hR
  cases ho : s.ctl.orch with
  | idle => exact h.orchIdle ho hR
  | polling => exact h.orchPolling ho hR
  | triggered =>
    rw [hctl] at ho
    simp only [Machine.orchStep, hctl, ho]
    exact h.toPolling hR
  | succeeded =>
    rw [hctl] at ho
    simpa only [Machine.orchStep, hctl, ho] using hR
  | failed =>
    rw [hctl] at ho
    simpa only [Machine.orchStep, hctl, ho] using hR

/-- Any number of transitions keep it. -/
theorem Simulation.captureLoop : ∀ (n : Nat) {s s' : State}, R s s' →
    R (captureLoop n s) (captureLoop n s')
  | 0, _, _, hR => hR
  | n + 1, s, s', hR => by
    have hctl := h.ctl hR
    cases hb : s.ctl.busy with
    | false =>
      rw [captureLoop_returned hb, captureLoop_returned (by rw [← hctl, hb])]
      exact hR
    | true =>
      rw [Machine.captureLoop, if_pos hb, Machine.captureLoop, if_pos (by rw [← hctl, hb])]
      exact Simulation.captureLoop n (h.orchStep hR)

end

/-! ### The moves that are waiting do not matter -/

/-- `s` with other moves waiting. -/
def State.withInbox (m : List Move) (s : State) : State := { s with inbox := m }

theorem transact_withInbox {a f : Byte} {p : List Byte} {t : Tag} (hp : p.length ≤ 56) (m : List Move)
    (s : State) : transact a f p t (s.withInbox m) =
      ((transact a f p t s).1, (transact a f p t s).2.withInbox m) := by
  obtain ⟨first, nexts, e, heq, -⟩ := transact_spec s.env
  rw [heq a f p t s hp rfl, heq a f p t (s.withInbox m) hp rfl]
  rfl

theorem simulation_withInbox (m : List Move) : Simulation fun s s' => s' = s.withInbox m where
  ops := by rintro s _ rfl; rfl
  ctl := by rintro s _ rfl; rfl
  attempt := by rintro s _ rfl; rfl
  pollBudget := by rintro s _ rfl; rfl
  pollCount := by rintro s _ rfl _; rfl
  transact := by
    rintro s _ a f p t hp rfl
    rw [transact_withInbox hp]
    exact ⟨rfl, rfl⟩
  bumpAttempt := by rintro s _ rfl; rfl
  bumpPoll := by rintro s _ rfl; rfl
  sleep := by rintro s _ ms rfl; rfl
  addElapsed := by rintro s _ rfl; rfl
  toIdle := by rintro s _ rfl; rfl
  toTriggered := by rintro s _ rfl; rfl
  toPolling := by rintro s _ rfl; rfl
  captureFail := by rintro s _ rfl; rfl
  captureSucceed := by rintro s _ r rfl; rfl

theorem orchStep_withInbox (m : List Move) (s : State) :
    orchStep (s.withInbox m) = (orchStep s).withInbox m :=
  (simulation_withInbox m).orchStep rfl

/-! ### Turn by turn -/

/-- A transition ends the command or leaves `busy` and the place between transitions as they are. -/
theorem Turn.flags {s t : State} (h : Turn s t) :
    t.ctl.busy = false ∨ (t.ctl.busy = s.ctl.busy ∧ t.ctl.midway = s.ctl.midway) := by
  have hretry : ∀ {u : State}, u.ctl = s.ctl → (retryOrFail u).ctl.busy = false ∨
      ((retryOrFail u).ctl.busy = s.ctl.busy ∧ (retryOrFail u).ctl.midway = s.ctl.midway) := by
    intro u hu
    rcases retryOrFail_cases u with ⟨-, heq⟩ | ⟨-, heq⟩
    · rw [heq, ← hu]
      exact .inr ⟨rfl, rfl⟩
    · rw [heq]
      exact .inl rfl
  cases h with
  | noRetry => exact .inl rfl
  | triggered _ _ hx => exact .inr (by rw [setOrch_ctl, hx.ctl]; exact ⟨rfl, rfl⟩)
  | @triggerFailed u _ _ hx =>
    rcases triggerFailed_cases u with ⟨-, heq⟩ | ⟨-, heq⟩
    · rw [heq, ← hx.ctl]
      exact .inr ⟨rfl, rfl⟩
    · rw [heq]
      exact .inl rfl
  | polling => exact .inr ⟨rfl, rfl⟩
  | exhausted => exact hretry rfl
  | statusError _ _ hx => exact hretry hx.ctl
  | wait _ _ _ hx => exact .inr ⟨congrArg Control.busy hx.ctl, congrArg Control.midway hx.ctl⟩
  | success => exact .inl rfl
  | terminal => exact .inr ⟨rfl, rfl⟩

/-- Inside CAPTURE_PLATE a busy engine stands between transitions. -/
theorem orchStep_midway {s : State} (h : s.ctl.busy = true → s.ctl.midway = true)
    (hb : (orchStep s).ctl.busy = true) : (orchStep s).ctl.midway = true := by
  rcases (orchStep_turn s).flags with hf | ⟨hbusy, hmid⟩
  · simp [hf] at hb
  · rw [hmid]
    exact h (hbusy ▸ hb)

/-- A turn of an idle engine does nothing (60_exceptions.md R232). -/
theorem step_engine_idle {s : State} {rest : List Move} (hinbox : s.inbox = .engine :: rest)
    (hidle : s.ctl.busy = false) : step s = .next (s.withInbox rest) := by
  simp only [step, advance, hinbox, applyMove, engineTurn, hidle, Bool.false_eq_true, if_false]
  rfl

/-- Turns of the engine inside CAPTURE_PLATE are its transitions; once it has returned they do nothing. -/
theorem runSteps_engine : ∀ (n : Nat) (s : State), (s.ctl.busy = true → s.ctl.midway = true) →
    runSteps n (s.withInbox (List.replicate n .engine)) = .next ((captureLoop n s).withInbox [])
  | 0, _, _ => rfl
  | n + 1, s, hmid => by
    cases hb : s.ctl.busy with
    | false =>
      have hstep := step_engine_idle (s := s.withInbox (List.replicate (n + 1) .engine)) rfl hb
      have ih := runSteps_engine n s hmid
      rw [captureLoop_returned hb] at ih ⊢
      rw [runSteps, hstep]
      exact ih
    | true =>
      have hstep : step (s.withInbox (List.replicate (n + 1) .engine)) =
          .next ((orchStep s).withInbox (List.replicate n .engine)) := by
        rw [← orchStep_withInbox]
        exact step_engine_midway rfl hb (hmid hb)
      rw [runSteps, hstep, captureLoop, if_pos hb]
      exact runSteps_engine n (orchStep s) (orchStep_midway hmid)

/-- More transitions than a run needs do not change its end. -/
theorem captureLoop_of_le {m n : Nat} {s : State} (h : (captureLoop m s).ctl.busy = false)
    (hle : m ≤ n) : captureLoop n s = captureLoop m s := by
  induction m generalizing n s with
  | zero => exact captureLoop_returned h n
  | succ m ih =>
    cases hb : s.ctl.busy with
    | false => rw [captureLoop_returned hb, captureLoop_returned hb]
    | true =>
      obtain ⟨n, rfl⟩ : ∃ k, n = k + 1 := ⟨n - 1, by omega⟩
      rw [captureLoop, if_pos hb] at h
      rw [captureLoop, if_pos hb, captureLoop, if_pos hb]
      exact ih h (by omega)

theorem captureStart_withInbox (m : List Move) (s : State) :
    captureStart (s.withInbox m) = (captureStart s).withInbox m := by
  cases h : s.ops.retriesLegal with
  | true =>
    have hlegal : s.ops.maxRetries.toNat ≤ 25 := of_decide_eq_true h
    rw [captureStart_legal hlegal, captureStart_legal (s := s.withInbox m) hlegal]
    rfl
  | false =>
    rw [captureStart_misuse h, captureStart_misuse (s := s.withInbox m) h]
    rfl

/-- The first turn of a started CAPTURE_PLATE runs its first statements. -/
theorem step_engine_start {s : State} {rest : List Move} (hbusy : s.ctl.busy = true)
    (hmid : s.ctl.midway = false) (hop : s.ctl.curOp = 0x20) :
    step (s.withInbox (.engine :: rest)) = .next ((captureStart s).withInbox rest) := by
  rw [← captureStart_withInbox]
  simp only [State.withInbox, step, advance, applyMove, engineTurn, hbusy, hmid, hop, Instr.opcode,
    if_true, Bool.false_eq_true, if_false]

/-- After its first statements CAPTURE_PLATE has returned or stands between transitions. -/
theorem captureStart_midway (s : State) (hb : (captureStart s).ctl.busy = true) :
    (captureStart s).ctl.midway = true := by
  cases h : s.ops.retriesLegal with
  | true =>
    rw [captureStart_legal (of_decide_eq_true h)]
    rfl
  | false =>
    rw [captureStart_misuse h] at hb
    contradiction

/-- The transitions of `captureFuel` are enough. -/
theorem captureLoop_captureStart {s : State} {n : Nat} (hn : (s.retries + 1) * (s.polls + 4) ≤ n) :
    captureLoop n (captureStart s) = captureRest (captureStart s) := by
  by_cases h : s.ops.maxRetries.toNat ≤ 25
  · exact captureLoop_of_le (captureLoop_returns h le_rfl).idle (by rwa [captureFuel_captureStart h])
  · have hreturned : (captureStart s).ctl.busy = false := by
      rw [captureStart_misuse (Operands.retriesLegal_eq_false_iff.2 (by omega))]
      rfl
    rw [captureRest, captureLoop_returned hreturned, captureLoop_returned hreturned]

/-- Settles O42: the first turn runs the first statements, each further one a transition, and there are
enough of them. -/
theorem engineTurnsReachTheRun : Obligations.EngineTurnsReachTheRun := by
  intro s n hinbox hbusy hmid hop hn
  obtain ⟨k, rfl⟩ : ∃ k, n = k + 1 := ⟨n - 1, by omega⟩
  have hkeeps : EngineKeeps s (captureRest (captureStart s)) :=
    (captureStart_engineKeeps s).trans (captureLoop_engineKeeps _ _)
  have hempty : (captureRest (captureStart s)).withInbox [] = captureRest (captureStart s) := by
    rw [← hinbox, ← hkeeps.inbox]
    rfl
  calc runSteps (k + 1) (s.withInbox (.engine :: List.replicate k .engine))
      = runSteps k ((captureStart s).withInbox (List.replicate k .engine)) := by
        rw [runSteps, step_engine_start hbusy hmid hop]
    _ = .next ((captureLoop k (captureStart s)).withInbox []) :=
        runSteps_engine k _ (captureStart_midway s)
    _ = .next (captureRest (captureStart s)) := by
        rw [captureLoop_captureStart (Nat.le_of_succ_le_succ hn), hempty]

end Sys2Proof.Machine
end

section
/-! Runs of CAPTURE_PLATE on written answers (44_capture_orchestrator.md R194, 95_test_vectors.md section
3): the scene a run has come to, with its events and the answers that are left; O33 to O35. -/

namespace Sys2Proof.Machine

/-! ### Scenes -/

/-- A run started in `s₀` stands in `s` in the state `o`, after `a` failed cycles and `c` polls; it has
made the events `evs`, and `tx` and `rx` are the answers left. -/
structure Scene (s₀ s : State) (o : Orch) (a c : Nat) (evs : List Event) (tx : List Bool)
    (rx : List (List Byte)) : Prop where
  stands : ∃ n sl, Stands s₀ s o a c n sl
  trace : s.trace = s₀.trace ++ evs
  env : s.env = { s₀.env with tx := tx, rx := rx }

/-- A run started in `s₀` has returned in `t` with the results `r`; it has made the events `evs`, and `tx`
and `rx` are the answers left. -/
structure RunEnd (s₀ t : State) (r : Results) (evs : List Event) (tx : List Bool)
    (rx : List (List Byte)) : Prop where
  idle : t.ctl.busy = false
  res : t.res = r
  trace : t.trace = s₀.trace ++ evs
  env : t.env = { s₀.env with tx := tx, rx := rx }

section
variable {s₀ s u : State} {o : Orch} {a c : Nat} {evs : List Event} {tx txs : List Bool}
  {rx rxs : List (List Byte)} {frame b : List Byte} {ok : Bool}

theorem Scene.ops (h : Scene s₀ s o a c evs tx rx) : s.ops = s₀.ops := by
  obtain ⟨n, sl, hst⟩ := h.stands
  exact hst.keeps.ops

theorem Scene.orch (h : Scene s₀ s o a c evs tx rx) : s.ctl.orch = o := by
  obtain ⟨n, sl, hst⟩ := h.stands
  exact hst.orch

theorem Scene.busy (h : Scene s₀ s o a c evs tx rx) : s.ctl.busy = true := by
  obtain ⟨n, sl, hst⟩ := h.stands
  rw [hst.ctl]
  rfl

theorem Scene.tx_eq (h : Scene s₀ s o a c evs tx rx) : s.env.tx = tx := by rw [h.env]
theorem Scene.rx_eq (h : Scene s₀ s o a c evs tx rx) : s.env.rx = rx := by rw [h.env]

/-- There is a cycle left. -/
theorem Scene.attempt_lt (h : Scene s₀ s o a c evs tx rx) (ha : a < s₀.retries) :
    s.work.attempt < s.ops.maxRetries := by
  obtain ⟨n, sl, hst⟩ := h.stands
  rw [hst.maxRetries]
  exact hst.attempt_lt ha

/-- Whether a retry follows a cycle that has failed. -/
theorem Scene.retry_iff (h : Scene s₀ s o a c evs tx rx) (ha : a < s₀.retries) :
    s.work.attempt + 1 < s.ops.maxRetries ↔ a + 1 < s₀.retries := by
  obtain ⟨n, sl, hst⟩ := h.stands
  rw [BitVec.lt_def, toNat_attempt_succ (h.attempt_lt ha), hst.attempt, hst.maxRetries]
  rfl

theorem Scene.answered (h : Scene s₀ s o a c evs tx rx) (hx : Answered frame ok b txs rxs s u) :
    Scene s₀ u o a c (evs ++ [.tx frame ok, .sleep 50, .rx 64 .first b]) txs rxs := by
  obtain ⟨n, sl, hst⟩ := h.stands
  exact ⟨⟨_, _, hst.exchanges hx.exchanges⟩, by rw [hx.trace, h.trace, List.append_assoc],
    by rw [hx.env, h.env]⟩

theorem Scene.setOrch (h : Scene s₀ s o a c evs tx rx) (o' : Orch) :
    Scene s₀ (s.setOrch o') o' a c evs tx rx := by
  obtain ⟨n, sl, hst⟩ := h.stands
  exact ⟨⟨_, _, hst.setOrch o'⟩, h.trace, h.env⟩

theorem Scene.clearPolls (h : Scene s₀ s o a c evs tx rx) : Scene s₀ s.clearPolls o a 0 evs tx rx := by
  obtain ⟨n, sl, hst⟩ := h.stands
  exact ⟨⟨_, _, hst.clearPolls⟩, h.trace, h.env⟩

theorem Scene.bumpPoll (h : Scene s₀ s o a c evs tx rx) (hlt : s.work.pollCount < s.work.pollBudget) :
    Scene s₀ s.bumpPoll o a (c + 1) evs tx rx := by
  obtain ⟨n, sl, hst⟩ := h.stands
  exact ⟨⟨_, _, hst.bumpPoll hlt⟩, h.trace, h.env⟩

theorem Scene.bumpAttempt (h : Scene s₀ s o a c evs tx rx) (ha : a < s₀.retries) :
    Scene s₀ s.bumpAttempt o (a + 1) c evs tx rx := by
  obtain ⟨n, sl, hst⟩ := h.stands
  exact ⟨⟨_, _, hst.bumpAttempt (hst.attempt_lt ha)⟩, h.trace, h.env⟩

theorem Scene.backedOff (h : Scene s₀ s o a c evs tx rx) (ha : a < s₀.retries) :
    Scene s₀ s.backedOff o (a + 1) c (evs ++ [.sleep (BitVec.ofNat 32 (100 * 2 ^ (a + 1)))]) tx rx := by
  have hsleep : backoff (s.work.attempt + 1) = BitVec.ofNat 32 (100 * 2 ^ (a + 1)) := by
    obtain ⟨n, sl, hst⟩ := h.stands
    rw [backoff_eq, toNat_attempt_succ (h.attempt_lt ha), hst.attempt]
  obtain ⟨n, sl, hst⟩ := h.stands
  refine ⟨⟨_, _, hst.backedOff (hst.attempt_lt ha)⟩, ?_, h.env⟩
  rw [State.backedOff, sleep_trace, hsleep, bumpAttempt_trace, h.trace, List.append_assoc]

theorem Scene.cadence (h : Scene s₀ s o a c evs tx rx) :
    Scene s₀ (cadence s) o a c (evs ++ [.sleep 100]) tx rx := by
  obtain ⟨n, sl, hst⟩ := h.stands
  refine ⟨⟨_, _, hst.cadence⟩, ?_, h.env⟩
  rw [← List.append_assoc, ← h.trace]
  rfl

/-- A run that fails in this scene. -/
theorem Scene.fail (h : Scene s₀ s o a c evs tx rx) : RunEnd s₀ (captureFail s)
    { Results.zero with err := 0x0A, orch := 4, attempt := BitVec.ofNat 8 a } evs tx rx := by
  obtain ⟨n, sl, hst⟩ := h.stands
  have hattempt : s.work.attempt = BitVec.ofNat 8 a := by
    rw [← hst.attempt, BitVec.ofNat_toNat, BitVec.setWidth_eq]
  exact ⟨rfl, by rw [hst.fail.res, hattempt], h.trace, h.env⟩

end

/-- A legal CAPTURE_PLATE that goes from scene to scene of `P` until a transition ends it with `Q`. -/
theorem capture_scenes {s₀ : State} (hlegal : s₀.ops.maxRetries.toNat ≤ 25) {P Q : State → Prop}
    (hbusy : ∀ s, P s → s.ctl.busy = true) (hidle : ∀ t, Q t → t.ctl.busy = false)
    (hstart : P (captureStart s₀)) (hstep : ∀ s, P s → P (orchStep s) ∨ Q (orchStep s)) :
    ∃ t, exec .capturePlate s₀ = .next t ∧ Q t := by
  obtain ⟨hrun, hfuel⟩ := captureStart_running hlegal
  refine ⟨_, rfl, (captureLoop_ends (P := fun s => Running s₀ s ∧ P s) (Q := Q) (turnsFrom s₀)
    (fun s hs => ⟨hs.1.busy, ?_⟩) _ _ ⟨hrun, hstart⟩ hfuel).2⟩
  obtain ⟨hrunning, hP⟩ := hs
  rcases hstep s hP with hP' | hQ
  · rcases Turn.advances hrunning (orchStep_turn s) with ⟨hrun', hlt⟩ | hret
    · exact .inl ⟨⟨hrun', hP'⟩, hlt⟩
    · have hb := hbusy _ hP'
      rw [hret.idle] at hb
      contradiction
  · exact .inr ⟨hidle _ hQ, hQ⟩

/-- The scene in which every legal run begins. -/
theorem scene_captureStart {s₀ : State} (hlegal : s₀.ops.maxRetries.toNat ≤ 25) :
    Scene s₀ (captureStart s₀) .idle 0 s₀.work.pollCount.toNat [] s₀.env.tx s₀.env.rx := by
  have hkeeps := captureStart_engineKeeps s₀
  rw [captureStart_legal hlegal] at hkeeps ⊢
  exact ⟨⟨0, 0, hkeeps, rfl, rfl, toNat_pollBudget s₀, rfl, rfl, [], (List.append_nil _).symm, rfl, le_rfl⟩,
    (List.append_nil _).symm, rfl⟩

/-- `max_retries` as the statements give it. -/
theorem retries_of_eq {s : State} {M : Nat} (h : s.ops.maxRetries = BitVec.ofNat 8 M) (hM : M ≤ 25) :
    s.retries = M := by
  rw [State.retries, h, BitVec.toNat_ofNat]
  exact Nat.mod_eq_of_lt (by omega)

/-! ### Every trigger times out (R184, R196 item 4) -/

/-- The events of cycle `k` when its trigger times out: the exchange, then the backoff. -/
def timeoutCycle (frame : List Byte) (k : Nat) : List Event :=
  [.tx frame true, .sleep 50, .rx 64 .first [], .sleep (BitVec.ofNat 32 (100 * 2 ^ (k + 1)))]

theorem totalSleep_append (a b : List Event) : totalSleep (a ++ b) = totalSleep a + totalSleep b := by
  simp [totalSleep]

/-- Each cycle of the first 25 sleeps 50 ms and twice what the one before has slept. -/
theorem totalSleep_timeoutCycles (frame : List Byte) : ∀ M, M ≤ 25 →
    totalSleep ((List.range M).flatMap (timeoutCycle frame)) + 200 = 100 * 2 ^ (M + 1) + 50 * M
  | 0, _ => rfl
  | M + 1, h => by
    have ih := totalSleep_timeoutCycles frame M (by omega)
    have hpow : 2 ^ (M + 1) ≤ 2 ^ 25 := Nat.pow_le_pow_right (by omega) h
    have hcycle : totalSleep (timeoutCycle frame M) = 50 + 100 * 2 ^ (M + 1) := by
      simp [totalSleep, timeoutCycle]
      omega
    rw [List.range_succ, List.flatMap_append, totalSleep_append, List.flatMap_singleton, hcycle,
      Nat.pow_succ 2 (M + 1)]
    omega

/-- The turn of cycle `k` when its trigger times out. -/
theorem Scene.timeout {s u : State} {k c : Nat} {evs : List Event} {txs : List Bool}
    {rxs : List (List Byte)} (h : Scene s u .idle k c evs (true :: txs) ([] :: rxs)) (hk : k < s.retries) :
    let evs' := evs ++ timeoutCycle ((handlerRequest s.ops .triggerCapture).getD []) k
    (k + 1 < s.retries → Scene s (orchStep u) .idle (k + 1) c evs' txs rxs) ∧
      (¬ k + 1 < s.retries → RunEnd s (orchStep u)
        { Results.zero with err := 0x0A, orch := 4, attempt := BitVec.ofNat 8 (k + 1) } evs' txs rxs) := by
  obtain ⟨hv, hx⟩ := triggerCapture_silent s.ops h.tx_eq h.rx_eq
  rw [← h.ops] at hv
  have hstep := orchStep_idle_error h.orch (h.attempt_lt hk) hv
  have hasked := h.answered hx
  have hfailed := hasked.backedOff hk
  have hretry := hasked.retry_iff hk
  rw [h.ops] at hstep
  rw [List.append_assoc] at hfailed
  refine ⟨fun hmore => ?_, fun hlast => ?_⟩
  · rw [hstep, triggerFailed_of_lt (hretry.2 hmore)]
    exact hfailed.setOrch .idle
  · rw [hstep, triggerFailed_of_not_lt (mt hretry.1 hlast)]
    exact hfailed.fail

theorem flatMap_range_succ {α : Type} (f : Nat → List α) (k : Nat) :
    (List.range (k + 1)).flatMap f = (List.range k).flatMap f ++ f k := by
  rw [List.range_succ, List.flatMap_append, List.flatMap_singleton]

/-- Settles O33: at the start of cycle `k` the answers of the other `M − k` triggers are left; each is
silence. -/
theorem everyTriggerTimesOut : Obligations.EveryTriggerTimesOut := by
  intro s M txs rxs h1 h25 hmax htx hrx frame cycles
  have hM : s.retries = M := retries_of_eq hmax h25
  have hlegal : s.ops.maxRetries.toNat ≤ 25 := hM.le.trans h25
  have hsleep : totalSleep cycles + 200 = 100 * 2 ^ (M + 1) + 50 * M :=
    totalSleep_timeoutCycles frame M h25
  have hstart := scene_captureStart hlegal
  obtain ⟨n, hn⟩ : ∃ n, M = n + 1 := ⟨M - 1, by omega⟩
  rw [htx, hrx, hn] at hstart
  obtain ⟨t, hexec, ht⟩ := capture_scenes hlegal
    (P := fun u => ∃ k r c, M = k + (r + 1) ∧
      Scene s u .idle k c ((List.range k).flatMap (timeoutCycle frame))
        (List.replicate (r + 1) true ++ txs) (List.replicate (r + 1) [] ++ rxs))
    (Q := fun t => RunEnd s t
      { Results.zero with err := 0x0A, orch := 4, attempt := BitVec.ofNat 8 M } cycles txs rxs)
    (by rintro u ⟨k, r, c, -, hu⟩; exact hu.busy) (fun t ht => ht.idle)
    ⟨0, n, _, by omega, hstart⟩
    (by
      rintro u ⟨k, r, c, hkr, hu⟩
      obtain ⟨hretry, hlast⟩ := hu.timeout (by omega)
      rw [← flatMap_range_succ] at hretry hlast
      cases r with
      | zero =>
        have hend := hlast (by omega)
        rw [← hkr] at hend
        exact .inr hend
      | succ r => exact .inl ⟨k + 1, r, c, by omega, hretry (by omega)⟩)
  refine ⟨t, hexec, ht.trace, ?_, ht.res, ht.env⟩
  have hpow : 2 ≤ 2 ^ (M + 1) := Nat.le_self_pow (by omega) 2
  change totalSleep cycles = _
  omega

/-! ### No poll allowed (R191, R192) -/

section
variable {s u : State} {k c : Nat} {evs : List Event} {tx txs : List Bool} {rx rxs : List (List Byte)}

/-- The acknowledgement that echoes the trigger's request. -/
def triggerAck (s : State) : List Byte := withChecksum [s.ops.addr, 0x10, 0, 1, 0, 1]

/-- The exchange of a trigger that is acknowledged. -/
def triggerExchange (s : State) : List Event :=
  [.tx ((handlerRequest s.ops .triggerCapture).getD []) true, .sleep 50, .rx 64 .first (triggerAck s)]

/-- The turn at `Idle` when its trigger is acknowledged. -/
theorem Scene.acknowledged (h : Scene s u .idle k c evs (true :: txs) (triggerAck s :: rxs))
    (hk : k < s.retries) :
    Scene s (orchStep u) .triggered k c (evs ++ triggerExchange s) txs rxs := by
  obtain ⟨hv, hx⟩ := triggerCapture_acknowledged s.ops h.tx_eq h.rx_eq
  rw [← h.ops] at hv
  rw [orchStep_idle_ok h.orch (h.attempt_lt hk) hv, h.ops]
  exact (h.answered hx).setOrch .triggered

/-- The turn at `Triggered`. -/
theorem Scene.triggered (h : Scene s u .triggered k c evs tx rx) :
    Scene s (orchStep u) .polling k 0 evs tx rx := by
  simp only [orchStep, h.orch]
  exact h.clearPolls.setOrch .polling

/-- The turn at `Polling` with the budget used up. -/
theorem Scene.exhausted (h : Scene s u .polling k c evs tx rx) (hk : k < s.retries) (hc : s.polls ≤ c) :
    (k + 1 < s.retries → Scene s (orchStep u) .idle (k + 1) c
      (evs ++ [.sleep (BitVec.ofNat 32 (100 * 2 ^ (k + 1)))]) tx rx) ∧
      (¬ k + 1 < s.retries → RunEnd s (orchStep u)
        { Results.zero with err := 0x0A, orch := 4, attempt := BitVec.ofNat 8 (k + 1) } evs tx rx) := by
  have hspent : u.work.pollBudget ≤ u.work.pollCount := by
    obtain ⟨n, sl, hst⟩ := h.stands
    rwa [BitVec.le_def, hst.budget, hst.pollCount]
  have hretry := h.retry_iff hk
  rw [orchStep_exhausted h.orch hspent]
  refine ⟨fun hmore => ?_, fun hlast => ?_⟩
  · rw [retryOrFail_of_lt (hretry.2 hmore)]
    exact (h.backedOff hk).setOrch .idle
  · rw [retryOrFail_of_not_lt (mt hretry.1 hlast)]
    exact (h.bumpAttempt hk).fail

end

/-- The events of cycle `k` of `M` when no poll is allowed: the exchange, and the backoff if a retry
follows. -/
def unpolledCycle (s : State) (M k : Nat) : List Event :=
  triggerExchange s ++ if k + 1 < M then [.sleep (BitVec.ofNat 32 (100 * 2 ^ (k + 1)))] else []

/-- The scenes of a run with `M` cycles and no poll allowed. -/
inductive Unpolled (s : State) (M : Nat) (txs : List Bool) (rxs : List (List Byte)) : State → Prop
  | idle {u : State} {k r c : Nat} : M = k + (r + 1) →
      Scene s u .idle k c ((List.range k).flatMap (unpolledCycle s M))
        (List.replicate (r + 1) true ++ txs) (List.replicate (r + 1) (triggerAck s) ++ rxs) →
      Unpolled s M txs rxs u
  | triggered {u : State} {k r c : Nat} : M = k + (r + 1) →
      Scene s u .triggered k c ((List.range k).flatMap (unpolledCycle s M) ++ triggerExchange s)
        (List.replicate r true ++ txs) (List.replicate r (triggerAck s) ++ rxs) →
      Unpolled s M txs rxs u
  | polling {u : State} {k r : Nat} : M = k + (r + 1) →
      Scene s u .polling k 0 ((List.range k).flatMap (unpolledCycle s M) ++ triggerExchange s)
        (List.replicate r true ++ txs) (List.replicate r (triggerAck s) ++ rxs) →
      Unpolled s M txs rxs u

theorem Unpolled.busy {s u : State} {M : Nat} {txs : List Bool} {rxs : List (List Byte)}
    (h : Unpolled s M txs rxs u) : u.ctl.busy = true := by
  cases h with
  | idle _ hu => exact hu.busy
  | triggered _ hu => exact hu.busy
  | polling _ hu => exact hu.busy

/-- Settles O34: each cycle goes through its three scenes; only the first has an exchange. -/
theorem zeroBudgetMakesNoPoll : Obligations.ZeroBudgetMakesNoPoll := by
  intro s M txs rxs h1 h25 hmax hbudget ack htx hrx frame
  have hM : s.retries = M := retries_of_eq hmax h25
  have hlegal : s.ops.maxRetries.toNat ≤ 25 := hM.le.trans h25
  have hpolls : s.polls ≤ 0 := by
    rw [State.polls]
    omega
  have hstart := scene_captureStart hlegal
  obtain ⟨n, hn⟩ : ∃ n, M = n + 1 := ⟨M - 1, by omega⟩
  rw [htx, hrx, hn] at hstart
  obtain ⟨t, hexec, ht⟩ := capture_scenes hlegal (P := Unpolled s M txs rxs)
    (Q := fun t => RunEnd s t { Results.zero with err := 0x0A, orch := 4, attempt := BitVec.ofNat 8 M }
      ((List.range M).flatMap (unpolledCycle s M)) txs rxs)
    (fun _ hu => hu.busy) (fun t ht => ht.idle) (.idle (k := 0) (r := n) (by omega) hstart)
    (by
      intro u hu
      cases hu with
      | idle hkr hu => exact .inl (.triggered hkr (hu.acknowledged (by omega)))
      | triggered hkr hu => exact .inl (.polling hkr hu.triggered)
      | @polling k r hkr hu =>
        obtain ⟨hretry, hlast⟩ := hu.exhausted (by omega) hpolls
        cases r with
        | zero =>
          have hcycles : (List.range M).flatMap (unpolledCycle s M) =
              (List.range k).flatMap (unpolledCycle s M) ++ triggerExchange s := by
            rw [hkr, flatMap_range_succ, unpolledCycle, if_neg (lt_irrefl _), List.append_nil]
          have hend := hlast (by omega)
          rw [← hcycles, show k + 1 = M from hkr.symm] at hend
          exact .inr hend
        | succ r =>
          have hcycles : (List.range (k + 1)).flatMap (unpolledCycle s M) =
              (List.range k).flatMap (unpolledCycle s M) ++ triggerExchange s ++
                [.sleep (BitVec.ofNat 32 (100 * 2 ^ (k + 1)))] := by
            rw [flatMap_range_succ, unpolledCycle, if_pos (by omega), List.append_assoc]
          have hnext := hretry (by omega)
          rw [← hcycles] at hnext
          exact .inl (.idle (by omega) hnext))
  exact ⟨t, hexec, ht.trace, ht.res, ht.env⟩

/-! ### The normal capture (R194) -/

section
variable {s u : State} {o : Orch} {a c : Nat} {evs : List Event} {tx txs : List Bool}
  {rx rxs : List (List Byte)}

/-- A run that succeeds in this scene; the counters stay as they are. -/
theorem Scene.succeed (h : Scene s u o a c evs tx rx) (r : Reading) :
    RunEnd s (captureSucceed r u)
      { Results.zero with reading := r, orch := 3, attempt := BitVec.ofNat 8 a } evs tx rx ∧
    (captureSucceed r u).stat = 0x06 ∧ (captureSucceed r u).work = u.work ∧
    u.work.attempt = BitVec.ofNat 8 a ∧ u.work.pollCount = BitVec.ofNat 32 c := by
  obtain ⟨n, sl, hst⟩ := h.stands
  have hattempt : u.work.attempt = BitVec.ofNat 8 a := by
    rw [← hst.attempt, BitVec.ofNat_toNat, BitVec.setWidth_eq]
  have hcount : u.work.pollCount = BitVec.ofNat 32 c := by
    rw [← hst.pollCount, BitVec.ofNat_toNat, BitVec.setWidth_eq]
  have hend := hst.succeed r
  rw [hattempt] at hend
  have hctl := hend.ctl
  exact ⟨⟨rfl, hend.res, h.trace, h.env⟩,
    stat_of_returned (v := true) rfl (by rw [hctl]; rfl) (by rw [hctl]; rfl), rfl, hattempt, hcount⟩

/-- The answer of one register whose low byte is `v`. -/
def statusAnswer (s : State) (v : Byte) : List Byte := withChecksum [s.ops.addr, 0x03, 2, 0, v]

/-- The exchange of a poll that is answered. -/
def pollExchange (s : State) (v : Byte) : List Event :=
  [.tx ((handlerRequest s.ops .readStatus).getD []) true, .sleep 50, .rx 64 .first (statusAnswer s v)]

/-- There is a poll left. -/
theorem Scene.pollCount_lt (h : Scene s u o a c evs tx rx) (hc : c < s.polls) :
    u.work.pollCount < u.work.pollBudget := by
  obtain ⟨n, sl, hst⟩ := h.stands
  rwa [BitVec.lt_def, hst.budget, hst.pollCount]

/-- The turn at `Polling` when the status is neither Ok nor Error. -/
theorem Scene.polled {v : Byte} (h : Scene s u .polling a c evs (true :: txs) (statusAnswer s v :: rxs))
    (hc : c < s.polls) (h2 : v ≠ 2) (h3 : v ≠ 3) :
    Scene s (orchStep u) .polling a (c + 1) (evs ++ pollExchange s v ++ [.sleep 100]) txs rxs ∧
      (orchStep u).work.elapsed = u.work.elapsed + 100 := by
  have hlt := h.pollCount_lt hc
  have hbumped := h.bumpPoll hlt
  obtain ⟨w, hx, -, hother, -⟩ := pollOnce_answered s.ops hbumped.ops hbumped.tx_eq hbumped.rx_eq
  rw [orchStep_poll h.orch hlt, hother h2 h3]
  exact ⟨(hbumped.answered hx).cadence, congrArg (· + 100) hx.exchanges.elapsed⟩

/-- The answer of eight registers. -/
def dataAnswer (s : State) (r0 r1 r2 r3 r4 r5 r6 r7 : Half) : List Byte :=
  withChecksum ([s.ops.addr, 0x03, 16] ++ [r0, r1, r2, r3, r4, r5, r6, r7].flatMap be16)

/-- The exchanges of the read of the data and of the reset after it. -/
def fetchExchanges (s : State) (data : List Byte) (ok : Bool) (answer : List Byte) : List Event :=
  [.tx ((handlerRequest s.ops .readData).getD []) true, .sleep 50, .rx 64 .first data,
    .tx ((handlerRequest s.ops .resetTrigger).getD []) ok, .sleep 50, .rx 64 .first answer]

/-- The turn at `Polling` when the status is Ok and the data is good: whatever ends the one read of the
reset, the run succeeds. -/
theorem Scene.captured {ok : Bool} {answer : List Byte} {r0 r1 r2 r3 r4 r5 r6 r7 : Half}
    (h : Scene s u .polling a c evs (true :: true :: ok :: txs)
      (statusAnswer s 2 :: dataAnswer s r0 r1 r2 r3 r4 r5 r6 r7 :: answer :: rxs))
    (hc : c < s.polls) (hlen : answer.length ≤ 64) (hends : answer = [] ∨ frameComplete answer = true) :
    ∃ w, orchStep u = captureSucceed (readingOf r0 r2 r3 r4 r5 r6 r7) w ∧
      w.work.elapsed = u.work.elapsed ∧
      Scene s w .polling a (c + 1) (evs ++ pollExchange s 2 ++
        fetchExchanges s (dataAnswer s r0 r1 r2 r3 r4 r5 r6 r7) ok answer) txs rxs := by
  have hlt := h.pollCount_lt hc
  have hbumped := h.bumpPoll hlt
  obtain ⟨p, hpoll, -, -, hok⟩ := pollOnce_answered s.ops hbumped.ops hbumped.tx_eq hbumped.rx_eq
  have hpolled := hbumped.answered hpoll
  obtain ⟨hread, hdata⟩ := readData_fetched s.ops hpolled.tx_eq hpolled.rx_eq
  have hfetched := hpolled.answered hdata
  have hreset := resetTrigger_answered s.ops hfetched.tx_eq hfetched.rx_eq hlen hends
  have hscene := hfetched.answered hreset
  rw [List.append_assoc] at hscene
  have helapsed := hreset.exchanges.elapsed.trans (hdata.exchanges.elapsed.trans hpoll.exchanges.elapsed)
  refine ⟨_, ?_, helapsed, hscene⟩
  rw [orchStep_poll h.orch hlt, hok rfl]
  exact fetchReading_ok hpolled.ops hread

end

/-- The answers and the events of a capture that succeeds after `N` polls. -/
structure Script where
  N : Nat
  status : Byte
  data : List Byte
  resetOk : Bool
  resetAnswer : List Byte
  txs : List Bool
  rxs : List (List Byte)

/-- The answers of the writes from a scene with `r` polls to go before the last. -/
def Script.tx (p : Script) (r : Nat) : List Bool :=
  List.replicate r true ++ true :: true :: p.resetOk :: p.txs

/-- The answers of the reads from there. -/
def Script.rx (p : Script) (s : State) (r : Nat) : List (List Byte) :=
  List.replicate r (statusAnswer s p.status) ++ statusAnswer s 2 :: p.data :: p.resetAnswer :: p.rxs

/-- The events up to the end of poll `k`. -/
def Script.events (p : Script) (s : State) (k : Nat) : List Event :=
  triggerExchange s ++ (List.replicate k (pollExchange s p.status ++ [.sleep 100])).flatten

theorem Script.events_succ (p : Script) (s : State) (k : Nat) :
    p.events s (k + 1) = p.events s k ++ pollExchange s p.status ++ [.sleep 100] := by
  simp only [Script.events, List.replicate_succ', List.flatten_append, List.flatten_singleton,
    List.append_assoc]

/-- The scenes of a capture that goes by the script `p`. -/
inductive Capturing (s : State) (p : Script) : State → Prop
  | idle {u : State} {c : Nat} :
      Scene s u .idle 0 c [] (true :: p.tx p.N) (triggerAck s :: p.rx s p.N) → Capturing s p u
  | triggered {u : State} {c : Nat} :
      Scene s u .triggered 0 c (p.events s 0) (p.tx p.N) (p.rx s p.N) → Capturing s p u
  | polling {u : State} {k r : Nat} : p.N = k + r →
      Scene s u .polling 0 k (p.events s k) (p.tx r) (p.rx s r) →
      u.work.elapsed = BitVec.ofNat 32 (100 * k) → Capturing s p u

theorem Capturing.busy {s u : State} {p : Script} (h : Capturing s p u) : u.ctl.busy = true := by
  cases h with
  | idle hu => exact hu.busy
  | triggered hu => exact hu.busy
  | polling _ hu _ => exact hu.busy

/-- Settles O35: after the trigger, the poll scenes `0` to `N`; the turn from the last one succeeds. -/
theorem captureSucceedsAfterPolls : Obligations.CaptureSucceedsAfterPolls := by
  intro s N status r0 r1 r2 r3 r4 r5 r6 r7 resetOk resetAnswer txs rxs hmore hlegal hpolls h2 h3 hlen hends
    ack poll data req htx hrx
  let p : Script := ⟨N, status, data, resetOk, resetAnswer, txs, rxs⟩
  have hstart := scene_captureStart hlegal
  have htx' : s.env.tx = true :: p.tx N := by
    rw [htx, List.replicate_succ, Script.tx, List.replicate_succ', List.replicate_succ']
    simp only [List.append_assoc, List.cons_append, List.nil_append]
    rfl
  rw [htx', hrx] at hstart
  obtain ⟨t, hexec, ht, hstat, hattempt, hcount, helapsed⟩ := capture_scenes hlegal (P := Capturing s p)
    (Q := fun t => RunEnd s t
        { Results.zero with reading := readingOf r0 r2 r3 r4 r5 r6 r7, orch := 3, attempt := 0 }
        (p.events s N ++ pollExchange s 2 ++ fetchExchanges s data resetOk resetAnswer) txs rxs ∧
      t.stat = 0x06 ∧ t.work.attempt = 0 ∧ t.work.pollCount = BitVec.ofNat 32 (N + 1) ∧
      t.work.elapsed = BitVec.ofNat 32 (100 * N))
    (fun _ hu => hu.busy) (fun t ht => ht.1.idle) (.idle hstart)
    (by
      intro u hu
      cases hu with
      | idle hu => exact .inl (.triggered (hu.acknowledged hmore))
      | triggered hu =>
        have helapsed : (orchStep u).work.elapsed = 0 := by simp only [orchStep, hu.orch]; rfl
        exact .inl (.polling (Nat.zero_add _).symm hu.triggered helapsed)
      | @polling k r hkr hu helapsed =>
        have hk : k ≤ N := by
          change N = k + r at hkr
          omega
        cases r with
        | zero =>
          obtain rfl : N = k := hkr
          obtain ⟨w, hstep, hw, hscene⟩ := hu.captured hpolls hlen hends
          obtain ⟨hend, hstat, hwork, hattempt, hcount⟩ := hscene.succeed (readingOf r0 r2 r3 r4 r5 r6 r7)
          rw [hstep, hwork]
          exact .inr ⟨hend, hstat, hattempt, hcount, hw.trans helapsed⟩
        | succ r =>
          obtain ⟨hscene, hwaited⟩ := hu.polled (hk.trans_lt hpolls) h2 h3
          rw [← Script.events_succ] at hscene
          refine .inl (.polling (by omega) hscene ?_)
          rw [hwaited, helapsed, Nat.mul_succ, BitVec.ofNat_add]
          rfl)
  refine ⟨t, hexec, ?_, ht.res, hstat, hattempt, hcount, helapsed, ht.env⟩
  rw [ht.trace]
  simp only [List.append_assoc]
  rfl

end Sys2Proof.Machine
end

section
/-! What holds of every instruction: how a command returns and what it leaves in the result registers, what
no instruction writes, and that nothing carries over from one command to the next (10_state.md R21, R22,
R31, R37); O44 to O48. -/

namespace Sys2Proof.Machine

/-! ### The return of a command -/

/-- A command has run from `s` and has returned in `t`. -/
structure CommandReturned (i : Instr) (s t : State) : Prop where
  produced : Produced i t.res t.ctl.valid
  ctl : t.ctl = { s.ctl.returned i.opcode t.ctl.valid with orch := t.ctl.orch }
  orch : i ≠ .capturePlate → t.ctl.orch = s.ctl.orch
  keeps : EngineKeeps s t

theorem exec_capturePlate_engineKeeps (s : State) : EngineKeeps s (captureRest (captureStart s)) :=
  (captureStart_engineKeeps s).trans (captureLoop_engineKeeps _ _)

/-- CAPTURE_PLATE returns from every state. -/
theorem exec_capturePlate_commandReturned (s : State) :
    ∃ t, exec .capturePlate s = .next t ∧ CommandReturned .capturePlate s t := by
  have hexec : exec .capturePlate s = .next (captureRest (captureStart s)) := rfl
  have hkeeps := exec_capturePlate_engineKeeps s
  by_cases h : s.ops.maxRetries.toNat ≤ 25
  · obtain ⟨t, hexec', o, v, r, a, tx, sl, hend, -, -, hcase⟩ := exec_capturePlate_returned h
    have hvalid : t.ctl.valid = v := by rw [hend.ctl]; rfl
    have hctl : t.ctl = { s.ctl.returned 0x20 t.ctl.valid with orch := t.ctl.orch } := by
      rw [hend.ctl]
      rfl
    refine ⟨t, hexec', ?_, hctl, fun hne => absurd rfl hne, hend.keeps⟩
    rw [hend.res, hvalid]
    rcases hcase with ⟨-, rfl, -, reading, rfl⟩ | ⟨-, rfl, -, rfl⟩
    · exact .captured reading t.work.attempt rfl
    · exact .gaveUp t.work.attempt rfl
  · have hmisuse := exec_capturePlate_misuse (s := s)
      (Operands.retriesLegal_eq_false_iff.2 (Nat.not_le.1 h))
    have heq := Host.Outcome.next.inj (hexec.symm.trans hmisuse)
    rw [heq] at hkeeps
    exact ⟨_, hmisuse, .error .callerMisuse, rfl, fun hne => absurd rfl hne, hkeeps⟩

/-- Every command returns from every state. -/
theorem exec_commandReturned {i : Instr} (hl : i.lane = .cmd) (s : State) :
    ∃ t, exec i s = .next t ∧ CommandReturned i s t := by
  by_cases hc : i = .capturePlate
  · subst hc
    exact exec_capturePlate_commandReturned s
  · obtain ⟨r, v, evs, env', hr, hall⟩ := exec_command hl hc s.ops s.env
    obtain ⟨w, hexec, hkeeps⟩ := hall s rfl rfl
    exact ⟨_, hexec, hr, rfl, fun _ => rfl, hkeeps⟩

theorem commandReturned_of_exec {i : Instr} {s t : State} (hl : i.lane = .cmd)
    (h : exec i s = .next t) : CommandReturned i s t := by
  obtain ⟨t', hexec, hret⟩ := exec_commandReturned hl s
  obtain rfl : t' = t := Host.Outcome.next.inj (hexec.symm.trans h)
  exact hret

/-- An error carries a value only when it is a device exception (60_exceptions.md R214). -/
theorem Err.exc_of_code_ne {e : Err} (h : e.code ≠ 0x04) : e.exc = 0 := by
  cases e with
  | deviceException c => exact absurd rfl h
  | _ => rfl

/-- Settles O44: each kind of result a command can leave is zero but for its own registers. -/
theorem unproducedResultsReadZero : Obligations.UnproducedResultsReadZero := by
  intro i s t hl hexec
  obtain ⟨hr, -, horch, -⟩ := commandReturned_of_exec hl hexec
  generalize t.res = r at hr ⊢
  generalize t.ctl.valid = v at hr ⊢
  cases hr with
  | error e =>
    exact ⟨fun _ => rfl, fun _ => rfl, fun _ => ⟨rfl, rfl⟩, fun _ => ⟨rfl, rfl⟩,
      fun hc => ⟨rfl, rfl, horch hc⟩, Err.exc_of_code_ne, fun _ => ⟨rfl, rfl, rfl, rfl, rfl, rfl⟩⟩
  | done =>
    exact ⟨fun _ => rfl, fun _ => rfl, fun _ => ⟨rfl, rfl⟩, fun _ => ⟨rfl, rfl⟩,
      fun hc => ⟨rfl, rfl, horch hc⟩, fun _ => rfl, fun h => absurd rfl h⟩
  | crc c hi =>
    exact ⟨fun h => absurd hi h, fun _ => rfl, fun _ => ⟨rfl, rfl⟩, fun _ => ⟨rfl, rfl⟩,
      fun hc => ⟨rfl, rfl, horch hc⟩, fun _ => rfl, fun h => absurd rfl h⟩
  | output bytes hi =>
    exact ⟨fun _ => rfl, fun _ => rfl, fun h => absurd hi h, fun _ => ⟨rfl, rfl⟩,
      fun hc => ⟨rfl, rfl, horch hc⟩, fun _ => rfl, fun h => absurd rfl h⟩
  | status b hi =>
    exact ⟨fun _ => rfl, fun h => absurd hi h, fun _ => ⟨rfl, rfl⟩, fun _ => ⟨rfl, rfl⟩,
      fun hc => ⟨rfl, rfl, horch hc⟩, fun _ => rfl, fun h => absurd rfl h⟩
  | reading r hi =>
    exact ⟨fun _ => rfl, fun _ => rfl, fun _ => ⟨rfl, rfl⟩, fun h => absurd (by simp [hi]) h,
      fun hc => ⟨rfl, rfl, horch hc⟩, fun _ => rfl, fun h => absurd rfl h⟩
  | captured r a hi =>
    exact ⟨fun _ => rfl, fun _ => rfl, fun _ => ⟨rfl, rfl⟩, fun h => absurd (by simp [hi]) h,
      fun hc => absurd hi hc, fun _ => rfl, fun h => absurd rfl h⟩
  | gaveUp a hi =>
    exact ⟨fun _ => rfl, fun _ => rfl, fun _ => ⟨rfl, rfl⟩, fun _ => ⟨rfl, rfl⟩,
      fun hc => absurd hi hc, fun _ => rfl, fun _ => ⟨rfl, rfl, rfl, rfl, rfl, rfl⟩⟩

/-- A reading comes with Ok. -/
theorem Produced.err_eq_zero {i : Instr} {r : Results} {v : Bool} (h : Produced i r v) (hv : v = true) :
    r.err = 0 := by
  cases h with
  | reading => rfl
  | captured => rfl
  | _ => contradiction

/-- Settles O45: every command returns, and STAT shows its flags. -/
theorem everyCommandReturnsDone : Obligations.EveryCommandReturnsDone := by
  intro i s hl
  obtain ⟨t, hexec, hret⟩ := exec_commandReturned hl s
  have hctl := hret.ctl
  have hbusy : t.ctl.busy = false := by rw [hctl]; rfl
  have hdone : t.ctl.done = true := by rw [hctl]; rfl
  have hstat := stat_of_returned hbusy hdone rfl
  refine ⟨t, hexec, hbusy, hdone, by rw [hctl]; rfl, by rw [hctl]; rfl, ?_⟩
  cases hv : t.ctl.valid with
  | true => exact ⟨.inr (by simp [hstat, hv]), fun _ => hret.produced.err_eq_zero hv⟩
  | false => exact ⟨.inl (by simp [hstat, hv]), fun h => by simp [hstat, hv] at h⟩

/-- A request frame of the table runs as one exchange (log 6). -/
theorem exec_request {i : Instr} {s t : State} (hl : i.lane = .request) (h : exec i s = .next t) :
    ∃ a f p tag, t = (transact a f p tag s).2 := by
  cases i with
  | rhrRequest a start qty tag => exact ⟨_, _, _, _, (Host.Outcome.next.inj h).symm⟩
  | wmrRequest a start values tag => exact ⟨_, _, _, _, (Host.Outcome.next.inj h).symm⟩
  | _ => contradiction

/-- A response frame of the table joins the receive stream (log 6). -/
theorem exec_response {i : Instr} {s t : State} (hl : i.lane = .response) (h : exec i s = .next t) :
    ∃ b, t = s.deliver b := by
  cases i with
  | rhrResponse a data => exact ⟨_, (Host.Outcome.next.inj h).symm⟩
  | wmrAck a p0 p1 p2 p3 => exact ⟨_, (Host.Outcome.next.inj h).symm⟩
  | rhrException a code rest => exact ⟨_, (Host.Outcome.next.inj h).symm⟩
  | wmrException a code rest => exact ⟨_, (Host.Outcome.next.inj h).symm⟩
  | _ => contradiction

theorem deliver_engineKeeps (b : List Byte) (s : State) : EngineKeeps s (s.deliver b) :=
  .of_registers rfl rfl rfl rfl rfl rfl rfl

/-- Every instruction keeps what the engine keeps. -/
theorem exec_engineKeeps {i : Instr} {s t : State} (h : exec i s = .next t) : EngineKeeps s t := by
  cases hl : i.lane with
  | cmd => exact (commandReturned_of_exec hl h).keeps
  | request =>
    obtain ⟨a, f, p, tag, rfl⟩ := exec_request hl h
    exact transact_engineKeeps a f p tag s
  | response =>
    obtain ⟨b, rfl⟩ := exec_response hl h
    exact deliver_engineKeeps b s

/-- Settles O46: no instruction writes them. -/
theorem engineNeverWritesOperands : Obligations.EngineNeverWritesOperands := by
  intro i s t h
  have hkeeps := exec_engineKeeps h
  exact ⟨hkeeps.ops, hkeeps.inbox, hkeeps.hostData⟩

/-! ### UPDATE_BOARD and A_ADDR (R168) -/

/-- `s` with another A_ADDR. -/
def State.withAddr (b : Byte) (s : State) : State := { s with ops := { s.ops with addr := b } }

theorem transact_withAddr {a f : Byte} {p : List Byte} {t : Tag} (hp : p.length ≤ 56) (b : Byte)
    (s : State) : transact a f p t (s.withAddr b) =
      ((transact a f p t s).1, (transact a f p t s).2.withAddr b) := by
  obtain ⟨first, nexts, e, heq, -⟩ := transact_spec s.env
  rw [heq a f p t s hp rfl, heq a f p t (s.withAddr b) hp rfl]
  rfl

/-- Settles O48: the exchange of UPDATE_BOARD goes to the board's own address, and its payload is BOARD. -/
theorem updateBoardIgnoresTheAddressOperand : Obligations.UpdateBoardIgnoresTheAddressOperand := by
  intro s b
  have hp : s.ops.boardPayload.length ≤ 56 := by simp [Operands.boardPayload]
  have hexchange := transact_withAddr (a := 0x20) (f := 0x10) (t := s.ops.tag) hp b (s.begin 0x14)
  refine ⟨_, rfl, ?_⟩
  change Host.Outcome.next (reportHandler (updateBoard s.ops.boardPayload s.ops.tag ((s.begin 0x14).withAddr b))
    fun _ t => t).finish = _
  simp only [updateBoard, andThen, Config.addrBoard, Config.fcWmr]
  rw [hexchange]
  cases (transact 0x20 0x10 s.ops.boardPayload s.ops.tag (s.begin 0x14)).1 with
  | ok p => rfl
  | error e => rfl

/-! ### Nothing carries over (R37) -/

/-- Two runs, from `s₀` and `s₀'`, that have come to `s` and `s'` with the same operands, environment,
results, flags and counters, by the same port events. -/
structure Alike (s₀ s₀' s s' : State) : Prop where
  ops : s.ops = s'.ops
  env : s.env = s'.env
  res : s.res = s'.res
  ctl : s.ctl = s'.ctl
  attempt : s.work.attempt = s'.work.attempt
  pollBudget : s.work.pollBudget = s'.work.pollBudget
  pollCount : s.ctl.orch = .polling → s.work.pollCount = s'.work.pollCount
  trace : ∃ evs, s.trace = s₀.trace ++ evs ∧ s'.trace = s₀'.trace ++ evs

theorem Alike.transact {s₀ s₀' s s' : State} (h : Alike s₀ s₀' s s') {a f : Byte} {p : List Byte}
    {t : Tag} (hp : p.length ≤ 56) : (transact a f p t s).1 = (transact a f p t s').1 ∧
      Alike s₀ s₀' (transact a f p t s).2 (transact a f p t s').2 := by
  obtain ⟨first, nexts, e, heq, -⟩ := transact_spec s.env
  obtain ⟨evs, htrace, htrace'⟩ := h.trace
  rw [heq a f p t s hp rfl, heq a f p t s' hp h.env.symm]
  exact ⟨rfl, { h with
    env := rfl
    trace := ⟨_, by rw [htrace, List.append_assoc], by rw [htrace', List.append_assoc]⟩ }⟩

theorem Alike.sleep {s₀ s₀' s s' : State} (h : Alike s₀ s₀' s s') (ms : Word) :
    Alike s₀ s₀' (sleep ms s) (sleep ms s') := by
  obtain ⟨evs, htrace, htrace'⟩ := h.trace
  exact { h with
    trace := ⟨_, by rw [sleep_trace, htrace, List.append_assoc],
      by rw [sleep_trace, htrace', List.append_assoc]⟩ }

theorem Alike.setOrch {s₀ s₀' s s' : State} (h : Alike s₀ s₀' s s') {o : Orch} (ho : o ≠ .polling) :
    Alike s₀ s₀' (s.setOrch o) (s'.setOrch o) :=
  { h with
    res := by rw [setOrch_res, setOrch_res, h.res]
    ctl := by rw [setOrch_ctl, setOrch_ctl, h.ctl]
    pollCount := fun hp => absurd hp ho }

theorem simulation_alike (s₀ s₀' : State) : Simulation (Alike s₀ s₀') where
  ops h := h.ops
  ctl h := h.ctl
  attempt h := h.attempt
  pollBudget h := h.pollBudget
  pollCount h := h.pollCount
  transact _ _ _ _ hp h := h.transact hp
  bumpAttempt h := { h with attempt := congrArg (· + 1) h.attempt }
  bumpPoll h := { h with pollCount := fun ho => congrArg (· + 1) (h.pollCount ho) }
  sleep ms h := h.sleep ms
  addElapsed h := { h with }
  toIdle h := h.setOrch (by decide)
  toTriggered h := h.setOrch (by decide)
  toPolling h :=
    { h with
      res := congrArg (fun r => { r with orch := Orch.polling.code }) h.res
      ctl := congrArg (fun c => { c with orch := Orch.polling }) h.ctl
      pollCount := fun _ => rfl }
  captureFail h :=
    { h with
      res := by simp [captureFail, h.res, h.attempt]
      ctl := by simp [captureFail, h.ctl]
      pollCount := nofun }
  captureSucceed r h :=
    { h with
      res := by simp [captureSucceed, h.res, h.attempt]
      ctl := by simp [captureSucceed, h.ctl]
      pollCount := nofun }

/-- The first statements of a legal CAPTURE_PLATE forget what was before. -/
theorem alike_captureStart {s s' : State} (ho : s.ops = s'.ops) (he : s.env = s'.env)
    (hlegal : s.ops.maxRetries.toNat ≤ 25) : Alike s s' (captureStart s) (captureStart s') := by
  rw [captureStart_legal hlegal, captureStart_legal (ho ▸ hlegal)]
  exact ⟨ho, he, rfl, rfl, rfl, congrArg (·.timeout / 100) ho, nofun,
    [], (List.append_nil _).symm, (List.append_nil _).symm⟩

/-- Two runs of a legal CAPTURE_PLATE on the same operands and environment. -/
theorem alike_captureRest {s s' : State} (ho : s.ops = s'.ops) (he : s.env = s'.env)
    (hlegal : s.ops.maxRetries.toNat ≤ 25) :
    Alike s s' (captureRest (captureStart s)) (captureRest (captureStart s')) := by
  have hstart := alike_captureStart ho he hlegal
  have hfuel : captureFuel (captureStart s) = captureFuel (captureStart s') := by
    rw [captureFuel, captureFuel, hstart.ops, hstart.pollBudget]
  rw [captureRest, captureRest, hfuel]
  exact (simulation_alike s s').captureLoop _ hstart

/-- Settles O47: CAPTURE_PLATE by two runs side by side, the others because they are determined by what
the two states agree on. -/
theorem nothingCarriesOverBetweenCommands : Obligations.NothingCarriesOverBetweenCommands := by
  intro i s s' t t' hl ho he hexec hexec'
  by_cases hc : i = .capturePlate
  · subst hc
    by_cases h : s.ops.maxRetries.toNat ≤ 25
    · cases hexec
      cases hexec'
      have halike := alike_captureRest ho he h
      exact ⟨halike.res, by rw [State.stat, State.stat, halike.ctl], halike.env, halike.trace⟩
    · have hmisuse := Operands.retriesLegal_eq_false_iff.2 (Nat.not_le.1 h)
      rw [exec_capturePlate_misuse hmisuse] at hexec
      rw [exec_capturePlate_misuse (ho ▸ hmisuse)] at hexec'
      cases hexec
      cases hexec'
      exact ⟨rfl, rfl, he, [], (List.append_nil _).symm, (List.append_nil _).symm⟩
  · obtain ⟨r, v, evs, env', -, hall⟩ := exec_command hl hc s.ops s.env
    obtain ⟨w, hrun, -⟩ := hall s rfl rfl
    obtain ⟨w', hrun', -⟩ := hall s' ho.symm he.symm
    cases hrun.symm.trans hexec
    cases hrun'.symm.trans hexec'
    exact ⟨rfl, rfl, rfl, evs, rfl, rfl⟩

end Sys2Proof.Machine
end

section
/-! Every step keeps strict turn-taking and the buffers (20_memory.md R64, R65, R70): what a step can do,
with the engine's activity put together; O56 and O57. -/

namespace Sys2Proof.Machine

theorem illegalCommand_engineKeeps (s : State) : EngineKeeps s (illegalCommand s) :=
  .of_update rfl rfl rfl (fun _ => rfl) id id (List.append_nil _).symm .nil

/-- A step is an activity of the engine, the start of a command, a host write of an operand, a host read
or a reset; `s0` is the state without the move it takes. -/
theorem step_activity {s t : State} (h : step s = .next t) :
    ∃ moves, let s0 : State := { s with inbox := moves }
      EngineKeeps s0 t ∨ (∃ op, t = s0.start op) ∨
      (∃ reg v o, s.ops.write reg v = some o ∧ t = { s0 with ops := o }) ∨
      (∃ d e, t = { s0 with hostData := d, env := e }) ∨ (∃ e, t = { s0 with env := e }.warmReset) := by
  obtain ⟨moves, hcases⟩ := step_cases h
  refine ⟨moves, ?_⟩
  rcases hcases with rfl | ⟨-, op, rfl⟩ | ⟨-, hwrite⟩ | ⟨d, e, -, -, rfl⟩ | ⟨e, rfl⟩ | ⟨-, -, rfl | rfl⟩ |
    ⟨-, -, rfl⟩ | ⟨-, -, i, -, hexec⟩ | ⟨-, -, rfl⟩ | ⟨b, i, -, hexec⟩ | ⟨b, rfl⟩ | ⟨-, b, i, -, hexec⟩
  · exact .inl (.refl _)
  · exact .inr (.inl ⟨op, rfl⟩)
  · exact .inr (.inr (.inl hwrite))
  · exact .inr (.inr (.inr (.inl ⟨d, e, rfl⟩)))
  · exact .inr (.inr (.inr (.inr ⟨e, rfl⟩)))
  · exact .inl (orchStep_engineKeeps _)
  · exact .inl (captureLoop_engineKeeps _ _)
  · exact .inl (captureStart_engineKeeps _)
  · exact .inl (exec_engineKeeps hexec)
  · exact .inl (illegalCommand_engineKeeps _)
  · exact .inl (exec_engineKeeps hexec)
  · exact .inl (deliver_engineKeeps b _)
  · exact .inl (exec_engineKeeps hexec)

/-- Settles O56: the port is only used by the engine, and a reset empties the trace. -/
theorem everyStepKeepsTurnTaking : Obligations.EveryStepKeepsTurnTaking := by
  intro s t hturns hstep
  obtain ⟨moves, hkeeps | ⟨op, rfl⟩ | ⟨reg, v, o, -, rfl⟩ | ⟨d, e, rfl⟩ | ⟨e, rfl⟩⟩ := step_activity hstep
  · exact hkeeps.turns hturns
  · exact hturns
  · exact hturns
  · exact hturns
  · rfl

/-- The host writes DBUF one byte at a time, within its 64 bytes. -/
theorem Operands.write_dbuf {o o' : Operands} {reg : Nat} {v : Word} (h : o.write reg v = some o') :
    o'.dbuf = o.dbuf ∨ ∃ k b, k < 64 ∧ o'.dbuf = o.dbuf.write k b := by
  unfold Operands.write at h
  split_ifs at h <;> obtain rfl := Option.some.inj h
  any_goals exact .inl rfl
  exact .inr ⟨reg - 128, v.setWidth 8, by omega, rfl⟩

/-- Settles O57: only a host write of DBUF touches a buffer from outside the engine. -/
theorem everyStepKeepsTheBuffers : Obligations.EveryStepKeepsTheBuffers := by
  intro s t hok hstep
  obtain ⟨moves, hkeeps | ⟨op, rfl⟩ | ⟨reg, v, o, hwrite, rfl⟩ | ⟨d, e, rfl⟩ | ⟨e, rfl⟩⟩ :=
    step_activity hstep
  · exact hkeeps.buffers hok
  · obtain ⟨hdbuf, -, htx, hrx⟩ := buffersOk_iff.1 hok
    exact buffersOk_iff.2 ⟨hdbuf, rfl, htx, hrx⟩
  · obtain ⟨hdbuf, hobuf, htx, hrx⟩ := buffersOk_iff.1 hok
    refine buffersOk_iff.2 ⟨?_, hobuf, htx, hrx⟩
    rcases Operands.write_dbuf hwrite with heq | ⟨k, b, hk, heq⟩
    · exact heq ▸ hdbuf
    · exact heq ▸ bufferOk_write hdbuf hk b
  · exact hok
  · rfl

end Sys2Proof.Machine
end

section
/-! Every step keeps the agreement of flags, sequencer and reading, and the ranges of the result registers
(10_state.md R27, R31, R32, 60_exceptions.md R210, R214): what a step does to flags and results; O58 and
O59. -/

namespace Sys2Proof.Machine

theorem sequencerOk_iff {s : State} : s.sequencerOk = true ↔
    (s.ctl.busy = true → s.ctl.done = false ∧ s.ctl.valid = false ∧ s.res.err = 0) ∧
    (s.ctl.midway = true → s.ctl.busy = true ∧ s.res.orch = s.ctl.orch.code ∧
      s.ctl.orch ≠ .succeeded ∧ s.ctl.orch ≠ .failed) ∧
    (s.ctl.valid = false → s.res.reading = Reading.zero) ∧
    (s.ctl.valid = true → s.ctl.done = true ∧ s.res.err = 0) := by
  simp only [State.sequencerOk, Bool.and_eq_true, Bool.or_eq_true, Bool.not_eq_true', beq_iff_eq,
    bne_iff_ne, okCode]
  grind

theorem resultsOk_iff {s : State} : s.resultsOk = true ↔
    s.res.err ≤ 0x0A ∧ (s.res.exc = 0 ∨ s.res.err = 0x04) ∧ s.res.orch ≤ 4 ∧ s.res.len ≤ 64 := by
  simp only [State.resultsOk, Bool.and_eq_true, Bool.or_eq_true, decide_eq_true_eq, beq_iff_eq, and_assoc]

theorem sequencerOk_congr {s t : State} (hctl : t.ctl = s.ctl) (hres : t.res = s.res) :
    t.sequencerOk = s.sequencerOk := by
  rw [State.sequencerOk, State.sequencerOk, hctl, hres]

theorem resultsOk_congr {s t : State} (hres : t.res = s.res) : t.resultsOk = s.resultsOk := by
  rw [State.resultsOk, State.resultsOk, hres]

/-! ### What a transition does to flags and results -/

/-- What a transition of CAPTURE_PLATE does to the flags and the result registers. -/
inductive Shown (s t : State) : Prop where
  | same (hctl : t.ctl = s.ctl) (hres : t.res = s.res)
  | moved (o : Orch) (ho : o ≠ .succeeded ∧ o ≠ .failed) (hctl : t.ctl = { s.ctl with orch := o })
      (hres : t.res = { s.res with orch := o.code })
  | failed (a : Byte)
      (hctl : t.ctl = { s.ctl with orch := .failed, busy := false, done := true, midway := false })
      (hres : t.res = { s.res with orch := 4, attempt := a, err := 0x0A, exc := 0 })
  | succeeded (r : Reading) (a : Byte)
      (hctl : t.ctl =
        { s.ctl with orch := .succeeded, busy := false, done := true, midway := false, valid := true })
      (hres : t.res = { s.res with orch := 3, attempt := a, err := 0, reading := r })

/-- The retry step shows `Idle` or `Failed`. -/
theorem shown_retryOrFail {s u : State} (hctl : u.ctl = s.ctl) (hres : u.res = s.res) :
    Shown s (retryOrFail u) := by
  rcases retryOrFail_cases u with ⟨-, heq⟩ | ⟨-, heq⟩
  · rw [heq]
    exact .moved .idle (by decide) (by rw [← hctl]; rfl) (by rw [← hres]; rfl)
  · rw [heq]
    exact .failed (u.work.attempt + 1) (by rw [← hctl]; rfl) (by rw [← hres]; rfl)

theorem Turn.shown {s t : State} (h : Turn s t) : Shown s t := by
  cases h with
  | noRetry => exact .failed s.work.attempt rfl rfl
  | triggered _ _ hx =>
    exact .moved .triggered (by decide) (by rw [setOrch_ctl, hx.ctl]) (by rw [setOrch_res, hx.res])
  | @triggerFailed u _ _ hx =>
    rcases triggerFailed_cases u with ⟨-, heq⟩ | ⟨-, heq⟩
    · rw [heq]
      exact .moved .idle (by decide) (by rw [← hx.ctl]; rfl) (by rw [← hx.res]; rfl)
    · rw [heq]
      exact .failed (u.work.attempt + 1) (by rw [← hx.ctl]; rfl) (by rw [← hx.res]; rfl)
  | polling => exact .moved .polling (by decide) rfl rfl
  | exhausted => exact shown_retryOrFail rfl rfl
  | statusError _ _ hx => exact shown_retryOrFail hx.ctl hx.res
  | wait _ _ _ hx => exact .same hx.ctl hx.res
  | @success u r _ _ hx =>
    have hctl : u.ctl = s.ctl := hx.ctl
    have hres : u.res = s.res := hx.res
    exact .succeeded r u.work.attempt (by rw [← hctl]; rfl) (by rw [← hres]; rfl)
  | terminal => exact .same rfl rfl

/-- A busy engine in CAPTURE_PLATE whose flags and sequencer agree stands between transitions. -/
def InCapture (s : State) : Prop := s.sequencerOk = true ∧ (s.ctl.busy = true → s.ctl.midway = true)

theorem Shown.inCapture {s t : State} (h : Shown s t) (hs : InCapture s) (hb : s.ctl.busy = true) :
    InCapture t := by
  obtain ⟨hok, hmid⟩ := hs
  obtain ⟨hbusy, hplace, hzero, hvalid⟩ := sequencerOk_iff.1 hok
  obtain ⟨hdone, hinvalid, herr⟩ := hbusy hb
  cases h with
  | same hctl hres => exact ⟨(sequencerOk_congr hctl hres).trans hok, hctl ▸ hmid⟩
  | moved o ho hctl hres =>
    refine ⟨sequencerOk_iff.2 ?_, by rw [hctl]; exact hmid⟩
    rw [hctl, hres]
    exact ⟨hbusy, fun hm => ⟨hb, rfl, ho⟩, hzero, hvalid⟩
  | failed a hctl hres =>
    refine ⟨sequencerOk_iff.2 ?_, by rw [hctl]; nofun⟩
    rw [hctl, hres]
    exact ⟨nofun, nofun, hzero, fun hv => absurd (hinvalid.symm.trans hv) Bool.false_ne_true⟩
  | succeeded r a hctl hres =>
    refine ⟨sequencerOk_iff.2 ?_, by rw [hctl]; nofun⟩
    rw [hctl, hres]
    exact ⟨nofun, nofun, nofun, fun _ => ⟨rfl, rfl⟩⟩

theorem zero_le_byte (b : Byte) : 0 ≤ b := BitVec.le_def.2 (Nat.zero_le _)

theorem succeeded_le : (3 : Byte) ≤ 4 := by decide

theorem Orch.code_le (o : Orch) : o.code ≤ 4 := by cases o <;> decide

theorem Shown.resultsOk {s t : State} (h : Shown s t) (hs : s.sequencerOk = true)
    (hb : s.ctl.busy = true) (hr : s.resultsOk = true) : t.resultsOk = true := by
  obtain ⟨-, -, herr⟩ := (sequencerOk_iff.1 hs).1 hb
  obtain ⟨hle, hexc, horch, hlen⟩ := resultsOk_iff.1 hr
  have hexc0 : s.res.exc = 0 := hexc.resolve_right (by rw [herr]; decide)
  cases h with
  | same hctl hres => exact (resultsOk_congr hres).trans hr
  | moved o ho hctl hres => exact resultsOk_iff.2 (by rw [hres]; exact ⟨hle, hexc, o.code_le, hlen⟩)
  | failed a hctl hres =>
    exact resultsOk_iff.2 (by rw [hres]; exact ⟨BitVec.le_refl _, .inl rfl, BitVec.le_refl _, hlen⟩)
  | succeeded r a hctl hres =>
    exact resultsOk_iff.2 (by rw [hres]; exact ⟨zero_le_byte _, .inl hexc0, succeeded_le, hlen⟩)

/-! ### What a step does to flags and results -/

/-- What a step does to the flags and the result registers. -/
inductive Effect (s t : State) : Prop where
  | none (hctl : t.ctl = s.ctl) (hres : t.res = s.res)
  /-- Reset, or the start of a command, or of the loop of CAPTURE_PLATE. -/
  | fresh (hres : t.res = Results.zero) (hdone : t.ctl.done = false) (hvalid : t.ctl.valid = false)
      (hmid : t.ctl.midway = true → t.ctl.busy = true ∧ t.ctl.orch = .idle)
  /-- A command has returned. -/
  | returned (i : Instr) (hres : Produced i t.res t.ctl.valid) (hbusy : t.ctl.busy = false)
      (hdone : t.ctl.done = true) (hmid : t.ctl.midway = false)
  /-- Transitions of CAPTURE_PLATE. -/
  | transitions (n : Nat) (u : State) (hctl : u.ctl = s.ctl) (hres : u.res = s.res)
      (hbusy : s.ctl.busy = true) (hmid : s.ctl.midway = true) (ht : t = captureLoop n u)

theorem CommandReturned.effect {i : Instr} {s s' t : State} (h : CommandReturned i s t) :
    Effect s' t := by
  have hctl := h.ctl
  exact .returned i h.produced (by rw [hctl]; rfl) (by rw [hctl]; rfl) (by rw [hctl]; rfl)

theorem effect_captureStart (s s' : State) : Effect s' (captureStart s) := by
  cases h : s.ops.retriesLegal with
  | true =>
    rw [captureStart_legal (of_decide_eq_true h)]
    exact .fresh rfl rfl rfl fun _ => ⟨rfl, rfl⟩
  | false =>
    rw [captureStart_misuse h]
    exact .returned .capturePlate (.error .callerMisuse) rfl rfl rfl

/-- An exchange touches neither flags nor result registers. -/
theorem transact_effect (a f : Byte) (p : List Byte) (t : Tag) (s : State) :
    (transact a f p t s).2.ctl = s.ctl ∧ (transact a f p t s).2.res = s.res := by
  by_cases hp : p.length ≤ 56
  · obtain ⟨first, nexts, e, heq, -⟩ := transact_spec s.env
    rw [heq a f p t s hp rfl]
    exact ⟨rfl, rfl⟩
  · have hlong : Config.maxFrame < p.length + Config.overhead := by
      simp only [Config.maxFrame, Config.overhead]; omega
    simp only [transact, buildRequest, if_pos hlong]
    exact ⟨rfl, rfl⟩

theorem exec_effect {i : Instr} {s t : State} (h : exec i s = .next t) : Effect s t := by
  cases hl : i.lane with
  | cmd => exact (commandReturned_of_exec hl h).effect
  | request =>
    obtain ⟨a, f, p, tag, rfl⟩ := exec_request hl h
    obtain ⟨hctl, hres⟩ := transact_effect a f p tag s
    exact .none hctl hres
  | response =>
    obtain ⟨b, rfl⟩ := exec_response hl h
    exact .none rfl rfl

theorem Effect.of_withInbox {s t : State} {m : List Move} (h : Effect { s with inbox := m } t) :
    Effect s t := by
  cases h with
  | none hctl hres => exact .none hctl hres
  | fresh hres hdone hvalid hmid => exact .fresh hres hdone hvalid hmid
  | returned i hres hbusy hdone hmid => exact .returned i hres hbusy hdone hmid
  | transitions n u hctl hres hbusy hmid ht => exact .transitions n u hctl hres hbusy hmid ht

theorem step_effect {s t : State} (h : step s = .next t) : Effect s t := by
  obtain ⟨moves, rfl | ⟨-, op, rfl⟩ | ⟨-, reg, v, o, -, rfl⟩ | ⟨d, e, -, -, rfl⟩ | ⟨e, rfl⟩ |
    ⟨hbusy, hmid, rfl | rfl⟩ | ⟨-, -, rfl⟩ | ⟨-, -, i, -, hexec⟩ | ⟨-, -, rfl⟩ | ⟨b, i, -, hexec⟩ |
    ⟨b, rfl⟩ | ⟨-, b, i, -, hexec⟩⟩ := step_cases h
  · exact .none rfl rfl
  · exact .fresh rfl rfl rfl nofun
  · exact .none rfl rfl
  · exact .none rfl rfl
  · exact .fresh rfl rfl rfl nofun
  · exact .transitions 1 { s with inbox := moves } rfl rfl hbusy hmid (if_pos hbusy).symm
  · exact .transitions _ { s with inbox := moves } rfl rfl hbusy hmid rfl
  · exact effect_captureStart _ s
  · exact (exec_effect hexec).of_withInbox
  · exact .returned .crc16 (.error .callerMisuse) rfl rfl rfl
  · exact (exec_effect hexec).of_withInbox
  · exact .none rfl rfl
  · exact (exec_effect hexec).of_withInbox

/-! ### The invariants -/

/-- Transitions of CAPTURE_PLATE keep the agreement. -/
theorem captureLoop_inCapture (n : Nat) {s : State} (h : InCapture s) : InCapture (captureLoop n s) :=
  captureLoop_keeps (fun s hs hb => (orchStep_turn s).shown.inCapture hs hb) n s h

/-- Only a reading or a capture shows a reading, with `valid`. -/
theorem Produced.reading_eq_zero {i : Instr} {r : Results} {v : Bool} (h : Produced i r v)
    (hv : v = false) : r.reading = Reading.zero := by
  cases h with
  | reading => contradiction
  | captured => contradiction
  | _ => rfl

/-- Settles O58: each effect of a step leaves flags, sequencer and reading in agreement. -/
theorem everyStepKeepsTheSequencer : Obligations.EveryStepKeepsTheSequencer := by
  intro s t hok hstep
  cases step_effect hstep with
  | none hctl hres => exact (sequencerOk_congr hctl hres).trans hok
  | fresh hres hdone hvalid hmid =>
    refine sequencerOk_iff.2 ⟨fun _ => ⟨hdone, hvalid, by rw [hres]; rfl⟩, fun hm => ?_,
      fun _ => by rw [hres]; rfl, fun hv => absurd (hvalid.symm.trans hv) Bool.false_ne_true⟩
    obtain ⟨hbusy, horch⟩ := hmid hm
    rw [hres, horch]
    exact ⟨hbusy, rfl, by decide, by decide⟩
  | returned i hres hbusy hdone hmid =>
    exact sequencerOk_iff.2 ⟨fun hb => absurd (hbusy.symm.trans hb) Bool.false_ne_true,
      fun hm => absurd (hmid.symm.trans hm) Bool.false_ne_true, hres.reading_eq_zero,
      fun hv => ⟨hdone, hres.err_eq_zero hv⟩⟩
  | transitions n u hctl hres hbusy hmid ht =>
    rw [ht]
    refine (captureLoop_inCapture n ⟨?_, fun _ => hctl ▸ hmid⟩).1
    exact (sequencerOk_congr hctl hres).trans hok

theorem Err.code_le (e : Err) : e.code ≤ 0x0A := by cases e <;> simp [Err.code]

theorem Err.exc_eq_zero_or (e : Err) : e.exc = 0 ∨ e.code = 0x04 := by
  by_cases h : e.code = 0x04
  · exact .inr h
  · exact .inl (Err.exc_of_code_ne h)

/-- What a command can leave is in range. -/
theorem Produced.inRange {i : Instr} {r : Results} {v : Bool} (h : Produced i r v) :
    r.err ≤ 0x0A ∧ (r.exc = 0 ∨ r.err = 0x04) ∧ r.orch ≤ 4 ∧ r.len ≤ 64 := by
  cases h with
  | error e => exact ⟨e.code_le, e.exc_eq_zero_or, zero_le_byte _, zero_le_byte _⟩
  | output bytes _ hlen =>
    refine ⟨zero_le_byte _, .inl rfl, zero_le_byte _, ?_⟩
    change BitVec.ofNat 8 bytes.length ≤ 64
    rw [BitVec.le_def, BitVec.toNat_ofNat, Nat.mod_eq_of_lt (by omega)]
    exact hlen
  | captured => exact ⟨zero_le_byte _, .inl rfl, succeeded_le, zero_le_byte _⟩
  | gaveUp => exact ⟨BitVec.le_refl _, .inl rfl, BitVec.le_refl _, zero_le_byte _⟩
  | _ => exact ⟨zero_le_byte _, .inl rfl, zero_le_byte _, zero_le_byte _⟩

/-- Settles O59: each effect of a step leaves the result registers in range. -/
theorem everyStepKeepsTheResultRanges : Obligations.EveryStepKeepsTheResultRanges := by
  intro s t hseq hok hstep
  cases step_effect hstep with
  | none hctl hres => exact (resultsOk_congr hres).trans hok
  | fresh hres hdone hvalid hmid =>
    exact resultsOk_iff.2 (by rw [hres]; exact ⟨zero_le_byte _, .inl rfl, zero_le_byte _, zero_le_byte _⟩)
  | returned i hres hbusy hdone hmid => exact resultsOk_iff.2 hres.inRange
  | transitions n u hctl hres hbusy hmid ht =>
    rw [ht]
    refine (captureLoop_keeps (P := fun s => InCapture s ∧ s.resultsOk = true) (fun w hw hb => ?_) n u
      ⟨⟨?_, fun _ => hctl ▸ hmid⟩, ?_⟩).2
    · obtain ⟨hcap, hr⟩ := hw
      have hshown := (orchStep_turn w).shown
      exact ⟨hshown.inCapture hcap hb, hshown.resultsOk hcap.1 hb hr⟩
    · exact (sequencerOk_congr hctl hres).trans hseq
    · exact (resultsOk_congr hres).trans hok

/-- Settles O60: the state after reset is closed data. -/
theorem resetMeetsTheInvariants : Obligations.ResetMeetsTheInvariants := ⟨rfl, rfl, rfl, rfl⟩

end Sys2Proof.Machine
end

section
/-! The host's side: what a step does with each move, the registers by number, reset inside a command
(10_state.md R20 to R22, R31, R32, 20_memory.md R67, 70_reset_and_hazards.md R242); O5, O49 to O53, O55. -/

namespace Sys2Proof.Machine

/-! ### Steps by the move they take -/

section
variable {s : State} {rest : List Move}

/-- With no move waiting and a command started, the command runs. -/
theorem step_run (hinbox : s.inbox = []) (hbusy : s.ctl.busy = true) : step s = runCommand s := by
  simp only [step, advance, hinbox, engineRun, hbusy, if_true]

theorem runCommand_of_decode {i : Instr} (hmid : s.ctl.midway = false)
    (hi : decode .cmd [s.ctl.curOp] = .ok i) : runCommand s = exec i s := by
  simp only [runCommand, hmid, hi, Bool.false_eq_true, if_false]

theorem step_write {reg : Nat} {v : Word} (hinbox : s.inbox = .write reg v :: rest) :
    step s = hostWrite reg v { s with inbox := rest } := by
  simp only [step, advance, hinbox, applyMove]

/-- A busy engine ignores a write. -/
theorem step_write_busy {reg : Nat} {v : Word} (hinbox : s.inbox = .write reg v :: rest)
    (hbusy : s.ctl.busy = true) : step s = .next { s with inbox := rest } := by
  rw [step_write hinbox, hostWrite, if_pos hbusy]

/-- An idle engine takes a write of an operand register. -/
theorem step_write_operand {reg : Nat} {v : Word} {o : Operands}
    (hinbox : s.inbox = .write reg v :: rest) (hbusy : s.ctl.busy = false) (h0 : reg ≠ 0)
    (ho : s.ops.write reg v = some o) : step s = .next { s with inbox := rest, ops := o } := by
  have hidle : ¬ s.ctl.busy = true := by simp [hbusy]
  rw [step_write hinbox, hostWrite, if_neg hidle, if_neg h0]
  simp only [ho]

/-- A host read that meets a rule returns what the register holds. -/
theorem step_read {reg : Nat} {held : Word} (hinbox : s.inbox = .read reg :: rest)
    (hheld : s.register reg = some held) (hrule : s.readIsFree reg = false) :
    step s = .next { s with inbox := rest, hostData := held } := by
  have hheld' : ({ s with inbox := rest } : State).register reg = some held := hheld
  have hrule' : ({ s with inbox := rest } : State).readIsFree reg = false := hrule
  simp only [step, advance, hinbox, applyMove, hostRead, hheld', hrule', Bool.false_eq_true, if_false]

/-- While the engine is idle every read meets a rule. -/
theorem readIsFree_idle (hbusy : s.ctl.busy = false) (reg : Nat) : s.readIsFree reg = false := by
  simp [State.readIsFree, hbusy]

end

/-- Settles O5: a step goes by the move that is waiting, then by the decoder. -/
theorem stepRunsTheDecodedInstruction : Obligations.StepRunsTheDecodedInstruction := by
  refine ⟨fun s i hinbox hbusy hmid hi => ?command, fun s i b rest hinbox hi => ?response,
    fun s i b rest hinbox hbusy hi => ?request⟩
  case command => rw [step_run hinbox hbusy, runCommand_of_decode hmid hi]
  case response => simp only [step, advance, hinbox, applyMove, arriveBytes, hi]
  case request =>
    simp only [step, advance, hinbox, applyMove, sendBytes, hbusy, hi, Bool.false_eq_true, if_false]

/-- Settles O49: CMD is the one register whose write starts a command. -/
theorem commandWriteStarts : Obligations.CommandWriteStarts := by
  intro s v rest hinbox hbusy
  have hidle : ¬ s.ctl.busy = true := by simp [hbusy]
  rw [step_write hinbox, hostWrite, if_neg hidle, if_pos rfl]
  rfl

/-- Settles O53: no move is waiting, and no command runs. -/
theorem idleEngineKeepsEverything : Obligations.IdleEngineKeepsEverything := by
  intro s hinbox hbusy
  simp only [step, advance, hinbox, engineRun, hbusy, Bool.false_eq_true, if_false]

/-! ### The registers by number (R20) -/

/-- STAT read flag by flag (R32). -/
theorem stat_word (s : State) : s.stat.setWidth 32 =
    (if s.ctl.busy then 1 else 0) + (if s.ctl.done then 2 else 0) + (if s.ctl.valid then 4 else 0) := by
  unfold State.stat
  cases s.ctl.busy <;> cases s.ctl.done <;> cases s.ctl.valid <;> rfl

section
variable (s : State) {reg : Nat}

theorem register_tag (h : 6 ≤ reg ∧ reg ≤ 9) :
    s.register reg = some ((tagByte s.ops.tag (reg - 6)).setWidth 32) := by
  unfold State.register
  iterate 6 rw [if_neg (by omega)]
  exact if_pos h

theorem register_plate (h : 32 ≤ reg ∧ reg ≤ 39) :
    s.register reg = some ((s.res.reading.plate.toList.getD (reg - 32) 0).setWidth 32) := by
  unfold State.register
  iterate 19 rw [if_neg (by omega)]
  exact if_pos h

theorem register_board (h : 64 ≤ reg ∧ reg ≤ 76) :
    s.register reg = some ((s.ops.board.toList.getD (reg - 64) 0).setWidth 32) := by
  unfold State.register
  iterate 20 rw [if_neg (by omega)]
  exact if_pos h

theorem register_dbuf (h : 128 ≤ reg ∧ reg ≤ 191) :
    s.register reg = some ((s.ops.dbuf.read (reg - 128)).setWidth 32) := by
  unfold State.register
  iterate 21 rw [if_neg (by omega)]
  exact if_pos h

theorem register_obuf (h : 192 ≤ reg ∧ reg ≤ 255) :
    s.register reg = some ((s.res.obuf.read (reg - 192)).setWidth 32) := by
  unfold State.register
  iterate 22 rw [if_neg (by omega)]
  exact if_pos h

end

/-- Settles O50: a busy engine's writes end before they are looked at; STAT and R_ORCH are the two numbers
whose reads meet a rule. -/
theorem busyEngineIgnoresWrites : Obligations.BusyEngineIgnoresWrites := by
  intro s rest hbusy
  refine ⟨fun reg v hinbox => step_write_busy hinbox hbusy, fun hinbox => ?stat, fun hinbox => ?orch⟩
  case stat =>
    rw [step_read hinbox rfl (by simp [State.readIsFree]), stat_word, hbusy]
    rfl
  case orch => exact step_read hinbox rfl (by simp [State.readIsFree])

/-! ### Read-only registers -/

theorem Operands.write_readOnly {o : Operands} {reg : Nat} {v : Word}
    (h : reg = 1 ∨ (12 ≤ reg ∧ reg ≤ 21) ∨ (32 ≤ reg ∧ reg ≤ 39) ∨ (192 ≤ reg ∧ reg ≤ 255)) :
    o.write reg v = none := by
  unfold Operands.write
  iterate 9 rw [if_neg (by omega)]

/-- Settles O52: the write finds no operand register; the reads go by the table of numbers. -/
theorem readOnlyRegistersKeepTheirValues : Obligations.ReadOnlyRegistersKeepTheirValues := by
  refine ⟨?write, ?read⟩
  case write =>
    intro s reg v rest hinbox hreg
    have h0 : reg ≠ 0 := by omega
    have hro : readOnlyRegister reg = true := decide_eq_true hreg
    by_cases hbusy : s.ctl.busy = true
    · exact step_write_busy hinbox hbusy
    · rw [step_write hinbox, hostWrite, if_neg hbusy, if_neg h0]
      simp only [Operands.write_readOnly hreg, hro, if_true]
  case read =>
    intro s rest hbusy reads
    have hread : ∀ reg held, s.register reg = some held → reads reg held :=
      fun reg held hheld hinbox => step_read hinbox hheld (readIsFree_idle hbusy reg)
    have hstat : s.register 1 =
        some ((if s.ctl.done then 2 else 0) + (if s.ctl.valid then 4 else 0)) := by
      change some (s.stat.setWidth 32) = _
      rw [stat_word, hbusy]
      simp
    refine ⟨hread _ _ hstat, hread _ _ rfl, hread _ _ rfl, hread _ _ rfl, hread _ _ rfl, hread _ _ rfl,
      hread _ _ rfl, hread _ _ rfl, hread _ _ rfl, hread _ _ rfl, hread _ _ rfl, fun k hk => ?plate,
      fun k hk => ?obuf⟩
    case plate =>
      refine hread _ _ ?_
      rw [register_plate s (by omega), Nat.add_sub_cancel_left]
      simp [hk]
    case obuf =>
      refine hread _ _ ?_
      rw [register_obuf s (by omega), Nat.add_sub_cancel_left]

/-! ### Operand registers -/

/-- What an operand register keeps of a value written to it: the low bits of its width, zero-extended
(log 10). -/
def keptBits (reg : Nat) (v : Word) : Word :=
  if reg = 11 then v else if 64 ≤ reg ∧ reg ≤ 76 then (v.setWidth 16).setWidth 32
  else (v.setWidth 8).setWidth 32

/-- `o` is taken by a write of `v` to the operand register `reg` of `s`: that register holds the bits it
keeps, every other register what it held. -/
def WritesRegister (s : State) (reg : Nat) (v : Word) (o : Operands) : Prop :=
  s.ops.write reg v = some o ∧ ({ s with ops := o } : State).register reg = some (keptBits reg v) ∧
    ∀ other, other ≠ reg → ({ s with ops := o } : State).register other = s.register other

theorem tagByte_setTagByte_same (t : Tag) {k : Nat} (h : k < 4) (b : Byte) :
    tagByte (setTagByte t k b) k = b := by
  interval_cases k <;> rfl

theorem tagByte_setTagByte_other (t : Tag) {j k : Nat} (hj : j < 4) (hk : k < 4) (h : j ≠ k) (b : Byte) :
    tagByte (setTagByte t k b) j = tagByte t j := by
  interval_cases j <;> interval_cases k <;> simp [tagByte, setTagByte] at h ⊢

theorem getD_set!_same {n k : Nat} (b : Vector Half n) (h : k < n) (x : Half) :
    (b.set! k x).toList.getD k 0 = x := by
  simp [h]

theorem getD_set!_other {n j k : Nat} (b : Vector Half n) (h : j ≠ k) (x : Half) :
    (b.set! k x).toList.getD j 0 = b.toList.getD j 0 := by
  simp [List.getD, Ne.symm h]

section
variable (s : State) {reg : Nat} (v : Word)

theorem writesRegister_tag (h : 6 ≤ reg ∧ reg ≤ 9) : ∃ o, WritesRegister s reg v o := by
  refine ⟨{ s.ops with tag := setTagByte s.ops.tag (reg - 6) (v.setWidth 8) }, ?_, ?_, fun other hne => ?_⟩
  · unfold Operands.write
    iterate 4 rw [if_neg (by omega)]
    exact if_pos h
  · rw [register_tag _ h, tagByte_setTagByte_same _ (by omega), keptBits, if_neg (by omega),
      if_neg (by omega)]
  · by_cases ho : 6 ≤ other ∧ other ≤ 9
    · rw [register_tag _ ho, register_tag _ ho,
        tagByte_setTagByte_other _ (by omega) (by omega) (by omega)]
    · unfold State.register
      rw [if_neg ho, if_neg ho]
      rfl

theorem writesRegister_board (h : 64 ≤ reg ∧ reg ≤ 76) : ∃ o, WritesRegister s reg v o := by
  refine ⟨{ s.ops with board := s.ops.board.set! (reg - 64) (v.setWidth 16) }, ?_, ?_, fun other hne => ?_⟩
  · unfold Operands.write
    iterate 7 rw [if_neg (by omega)]
    exact if_pos h
  · rw [register_board _ h, getD_set!_same _ (by omega), keptBits, if_neg (by omega), if_pos h]
  · by_cases ho : 64 ≤ other ∧ other ≤ 76
    · rw [register_board _ ho, register_board _ ho, getD_set!_other _ (by omega)]
    · unfold State.register
      rw [if_neg ho, if_neg ho]
      rfl

theorem writesRegister_dbuf (hwf : s.ops.dbuf.wf = true) (h : 128 ≤ reg ∧ reg ≤ 191) :
    ∃ o, WritesRegister s reg v o := by
  refine ⟨{ s.ops with dbuf := s.ops.dbuf.write (reg - 128) (v.setWidth 8) }, ?_, ?_, fun other hne => ?_⟩
  · unfold Operands.write
    iterate 8 rw [if_neg (by omega)]
    exact if_pos h
  · rw [register_dbuf _ h, Memory.read_write_same _ _ hwf, keptBits, if_neg (by omega),
      if_neg (by omega)]
  · by_cases ho : 128 ≤ other ∧ other ≤ 191
    · rw [register_dbuf _ ho, register_dbuf _ ho, Memory.read_write_other (by omega)]
    · unfold State.register
      rw [if_neg ho, if_neg ho]
      rfl

/-- The registers that stand alone: A_ADDR to A_LEN, A_MAXRETRIES and A_TIMEOUT. -/
theorem writesRegister_single (h : (2 ≤ reg ∧ reg ≤ 5) ∨ reg = 10 ∨ reg = 11) :
    ∃ o, WritesRegister s reg v o := by
  obtain rfl | rfl | rfl | rfl | rfl | rfl :
      reg = 2 ∨ reg = 3 ∨ reg = 4 ∨ reg = 5 ∨ reg = 10 ∨ reg = 11 := by omega
  all_goals
    refine ⟨_, rfl, rfl, fun other hne => ?_⟩
    unfold State.register
    rw [if_neg hne, if_neg hne]
    rfl

/-- Every operand register is written alone. -/
theorem writesRegister_operand (hwf : s.ops.dbuf.wf = true)
    (h : (2 ≤ reg ∧ reg ≤ 11) ∨ (64 ≤ reg ∧ reg ≤ 76) ∨ (128 ≤ reg ∧ reg ≤ 191)) :
    ∃ o, WritesRegister s reg v o := by
  rcases h with h | h | h
  · by_cases htag : 6 ≤ reg ∧ reg ≤ 9
    · exact writesRegister_tag s v htag
    · exact writesRegister_single s v (by omega)
  · exact writesRegister_board s v h
  · exact writesRegister_dbuf s v hwf h

end

/-- Settles O51: the write takes the register alone, and the read is of an idle engine. -/
theorem operandReadsBackWhatWasWritten : Obligations.OperandReadsBackWhatWasWritten := by
  intro s reg v rest hbusy hwf hinbox hreg
  obtain ⟨o, hwrite, hsame, hother⟩ := writesRegister_operand s v hwf hreg
  have hfirst := step_write_operand hinbox hbusy (by omega) hwrite
  have hsecond := step_read (s := { s with inbox := .read reg :: rest, ops := o }) rfl hsame
    (readIsFree_idle hbusy reg)
  exact ⟨_, _, hfirst, hsecond, rfl, hother, rfl, rfl, rfl, rfl⟩

/-! ### Reset inside a handler command (R242) -/

/-- Settles O55: the exchange of the command is a write, the guard delay, a FIRST read and what follows it;
the reset keeps what the events before it took from the environment. -/
theorem resetAbandonsTheCommand : Obligations.ResetAbandonsTheCommand := by
  intro s i k rest frame hinbox hbusy hmid hi hreq hk
  obtain ⟨a, f, hexp⟩ := handlerExpects_of_request hreq
  obtain ⟨first, nexts, e, hall, -⟩ := handler_spec s.env
  obtain ⟨p, -, -, hexec⟩ := hall i { s with inbox := rest } a f rfl hexp
  have hrun : engineRun { s with inbox := rest } = exec i { s with inbox := rest } := by
    rw [engineRun, if_pos hbusy]
    exact runCommand_of_decode hmid hi
  have hstep : step s = abandonAfter k { s with inbox := rest } := by
    simp only [step, advance, hinbox, applyMove]
  rw [hexec] at hrun
  simp only [abandonAfter, hrun, handlerEnd_trace, List.drop_left] at hstep
  refine ⟨_, hstep, rfl, rfl, rfl, ?_⟩
  interval_cases k <;> rfl

end Sys2Proof.Machine
end
